-- ==== Sys2Proof/Word.lean ====
section
/-! DEFINITION. The widths of the machine (00_scope.md R9). -/

namespace Sys2Proof

/-- 8 bits: the accumulator, the flag byte, a half of a register pair, a memory byte, a port number (R9). -/
abbrev Byte := BitVec 8

/-- 16 bits: a register pair, SP, PC, a memory address (R9). -/
abbrev Word := BitVec 16

end Sys2Proof
end

