-- ==== Sys2Proof/Config.lean ====
section
/-! DEFINITION. What an implementation fixes (00_scope.md R10) as plain data, and the free values, which have no body.
The values live in State (notes/assumptions/3.md, 4.md); nothing here changes while the machine runs. -/

namespace Sys2Proof

/-! ### Free values -/

/-- FREE VALUE: what a byte of a storage plane holds that nothing has written (R208, R1004, I2). Nothing constrains
it. -/
opaque Config.initialByte : (plane : Byte) → Word → Byte

/-- FREE VALUE: what an address that the platform answers by its own means reads as, a function of the address and of
every byte written to such addresses so far (R208: "whatever `MEM` says"; notes/assumptions/1.md). Nothing constrains
it. -/
opaque Config.externalByte : (written : List (Word × Byte)) → Word → Byte

/-- FREE VALUE: what device `dev` contributes at a port for which the machine gives no value (I5: "the device's own
function of its state"), by device, port and a counter that every use advances. Nothing constrains it. -/
opaque Config.portInput : (dev : Nat) → (port : Byte) → (use : Nat) → Byte

/-! ### Parameters -/

/-- INT_MODE (R914): the interrupt-acknowledge protocol. -/
inductive IntMode where
  | restart | call
deriving DecidableEq, Repr

/-- UNDEF_ALIAS_MODE (R312, R817): what the twelve officially undefined opcodes execute as. -/
inductive UndefMode where
  | isaAlias | nop
deriving DecidableEq, Repr

/-- What stands at an address of the memory map (R7, R208: "what ROM, RAM, holes and banks a platform has is the
platform's"). Storage is held in numbered planes of 65536 bytes; two ranges on one plane share their bytes. -/
inductive MemKind where
  /-- Read-write storage of a plane. -/
  | ram (plane : Byte)
  /-- Storage of a plane that `setByte` does not change. -/
  | rom (plane : Byte)
  /-- Nothing: reads as a fixed byte, writes have no effect. -/
  | hole (value : Byte)
  /-- The bank latch: a write selects the bank, a read gives the bank selected. -/
  | select
  /-- Answered by the platform's own means: writes are recorded, reads are free values. -/
  | external
deriving DecidableEq, Repr

/-- A range of the memory map, in one bank or in all. -/
structure MemRegion where
  first : Word
  last : Word
  /-- The bank the range belongs to; `none`: every bank. -/
  bank : Option Byte
  kind : MemKind
deriving DecidableEq, Repr

/-- The parameters of R10 that are not per device. A list of exceptions stands for a function: an entry replaces the
default value of its key. -/
structure Params where
  /-- INT_MODE. -/
  intMode : IntMode
  /-- UNDEF_ALIAS_MODE. -/
  undefMode : UndefMode
  /-- FLAG_AND_MASK. -/
  flagAnd : Byte
  /-- FLAG_OR_MASK. -/
  flagOr : Byte
  /-- INT_RST_COST. -/
  intRstCost : Nat
  /-- INT_CALL_COST. -/
  intCallCost : Nat
  /-- BASE_COST: opcode byte, cost taken, cost not taken, for the opcodes whose cost is not the default. The third counts
  for conditional calls and returns alone (R700). -/
  costs : List (Byte × Nat × Nat)
  /-- RST_TARGET: INTVEC and PC, for the values of INTVEC whose target is not the default. -/
  rstTargets : List (Word × Word)
  /-- MEM: the memory map, the first range that fits an address counting (notes/assumptions/1.md). An address in no
  range is read-write storage of plane 0, so that the empty list is the default instance of R208. -/
  map : List MemRegion
deriving DecidableEq, Repr

/-- The defaults of R10. INT_MODE is OPEN there: `restart` is a DESIGN CHOICE (notes/assumptions/3.md). -/
def Params.default : Params where
  intMode := .restart
  undefMode := .isaAlias
  flagAnd := 0xD7#8
  flagOr := 0x02#8
  intRstCost := 11
  intCallCost := 17
  costs := []
  rstTargets := []
  map := []

/-! ### The assembled hardware -/

/-- A pin: its owner device, by place in the assembly, and its place among that device's pins. A pin exists exactly
as long as its owner (R940). -/
structure PinId where
  dev : Nat
  idx : Nat
deriving DecidableEq, Repr

/-- The level a platform device's action drives a pin to: an integer level expression (normalised by R944), the level
of one of its own pins' nodes or its inverse, or a bit of the last byte written to the device. -/
inductive LevelExpr where
  | int (x : Int)
  | node (pin : Nat)
  | notNode (pin : Nat)
  | outBit (bit : Nat)
deriving DecidableEq, Repr

/-- The byte a platform device shows at a port: a fixed byte, or bit by bit from bit 0 up, a bit that is not listed
being 1. The bits read pins, nodes and the device's own last byte at the time of the `IN` (R129: "pin levels (what `IN`
reads through devices)"). -/
inductive ByteExpr where
  | const (v : Byte)
  | bits (levels : List LevelExpr)
deriving DecidableEq, Repr

/-- What a platform device can do when it is called: the interactions R910, R931, R932, R942, R964 give a device. -/
inductive Action where
  /-- `drive` of its own pin. -/
  | drive (pin : Nat) (level : LevelExpr)
  /-- `addEvent(self, CYC + delay, param)`. -/
  | addEvent (delay : Int) (param : Int)
  /-- `addEvent(self, trigger, param)`, the trigger absolute and perhaps past-dated (R938). -/
  | addEventAt (trigger : Int) (param : Int)
  /-- `removeAllEvents(self)`. -/
  | removeAllEvents
  /-- `requestInterrupt(vector)`. -/
  | requestInterrupt (vector : Word)
  /-- `withdrawInterrupt()`. -/
  | withdrawInterrupt
  /-- Shows something else at a port from now on: a change of the device's own fields (R947). -/
  | display (port : Byte) (byte : ByteExpr)
  /-- The reset request (R919: "a reset or interrupt request made by a callback"). -/
  | requestReset
  /-- `activate()` of an auto-reset driver, which R964 gives "the owning device's own logic"; the assembly records no
  owner (DESIGN CHOICE, notes/assumptions/27.md). -/
  | activate (dev : Nat)
  /-- `deactivate()` of an auto-reset driver; see `activate`. -/
  | deactivate (dev : Nat)
deriving DecidableEq, Repr

/-- A platform device's reactions (R7 leaves the concrete chips open; notes/assumptions/8.md). A key that is not
listed has no reaction. -/
structure Behaviour where
  onReset : List Action
  onFire : List (Int × List Action)
  onNotify : List (Nat × List Action)
  onInput : List (Byte × List Action)
  onOutput : List (Byte × List Action)
  /-- What the device shows at a port after reset. -/
  shows : List (Byte × ByteExpr)
deriving DecidableEq, Repr

/-- The kinds of device: the four of section 8 of 60_exceptions.md with their parameters, and a platform device. -/
inductive DeviceKind where
  /-- R961: pin 0 is `out`. -/
  | divider (n : Nat)
  /-- R962: pin 0 is `in`, pin 1 `data`, pin 2 `clk`. -/
  | decoder (delay zmax : Nat)
  /-- R963: pin 0 is `d`, pin 1 `ck`, pin 2 `out`. -/
  | sampler
  /-- R964: pin 0 is `out`. -/
  | autoReset (limit : Nat) (active : Bool)
  /-- A platform device: any number of pins. -/
  | platform (reactions : Behaviour)
deriving DecidableEq, Repr

/-- A device of the assembly and the number of pins it is given. -/
structure DeviceDecl where
  kind : DeviceKind
  pins : Nat
deriving DecidableEq, Repr

/-- The assembled hardware: devices in assembly order, nodes as ordered pin lists (R941), and the port registrations
in registration order as (port, device) (R222). Fixed for a run (R126, R128, R946). -/
structure Assembly where
  devices : List DeviceDecl
  nodes : List (List PinId)
  inputs : List (Nat × Nat)
  outputs : List (Nat × Nat)
deriving DecidableEq, Repr

/-- Nothing assembled beside the CPU and its memory (notes/assumptions/4.md). -/
def Assembly.empty : Assembly := ⟨[], [], [], []⟩

end Sys2Proof
end

