-- ==== Sys2Proof/Syntax.lean ====
section
/-! DEFINITION. The instructions: one constructor per instruction rule of 40_data_transfer.md to
44_stack_io_machine.md. The rows of spec/opcode_table.json that one rule covers differ only in a register, pair,
restart or slot field, which is an operand here. -/

namespace Sys2Proof

/-- The 8-bit registers a `ddd` or `sss` field can name (R303). Code `110`, the memory operand M, is no register:
each instruction with an M form has a constructor of its own for it. -/
inductive Reg where
  | b | c | d | e | h | l | a
deriving DecidableEq, Repr

/-- The register pairs an `rp` field can name (R304). Code `11` as PSW has constructors of its own. -/
inductive Pair where
  | bc | de | hl | sp
deriving DecidableEq, Repr

/-- The condition codes (R305). -/
inductive Cond where
  | nz | z | nc | c | po | pe | p | m
deriving DecidableEq, Repr

/-- The instructions. The number of the rule that gives each its meaning stands beside it. -/
inductive Instr where
  -- data transfer
  | movRR (dst src : Reg)                     -- R401
  | movRM (dst : Reg)                       -- R402
  | movMR (src : Reg)                       -- R403
  | mviR (dst : Reg) (n : Byte)             -- R404
  | mviM (n : Byte)                       -- R405
  | lxi (pr : Pair) (nn : Word)           -- R406
  | lda (nn : Word)                       -- R407
  | sta (nn : Word)                       -- R408
  | lhld (nn : Word)                      -- R409
  | shld (nn : Word)                      -- R410
  | ldax (pr : Pair)                      -- R411
  | stax (pr : Pair)                      -- R412
  | xchg                                  -- R413
  -- arithmetic
  | addR (src : Reg)                        -- R501
  | addM                                  -- R502
  | adi (n : Byte)                        -- R503
  | adcR (src : Reg)                        -- R504
  | adcM                                  -- R505
  | aci (n : Byte)                        -- R506
  | subR (src : Reg)                        -- R507
  | subM                                  -- R508
  | sui (n : Byte)                        -- R509
  | sbbR (src : Reg)                        -- R510
  | sbbM                                  -- R511
  | sbi (n : Byte)                        -- R512
  | inrR (dst : Reg)                        -- R513
  | inrM                                  -- R514
  | dcrR (dst : Reg)                        -- R515
  | dcrM                                  -- R516
  | inx (pr : Pair)                       -- R517
  | dcx (pr : Pair)                       -- R518
  | dad (pr : Pair)                       -- R519
  | daa                                   -- R520
  -- logical, compare, rotate, flag
  | anaR (src : Reg)                        -- R601
  | anaM                                  -- R602
  | ani (n : Byte)                        -- R603
  | xraR (src : Reg)                        -- R604
  | xraM                                  -- R605
  | xri (n : Byte)                        -- R606
  | oraR (src : Reg)                        -- R607
  | oraM                                  -- R608
  | ori (n : Byte)                        -- R609
  | cmpR (src : Reg)                        -- R610
  | cmpM                                  -- R611
  | cpi (n : Byte)                        -- R612
  | rlc                                   -- R613
  | rrc                                   -- R614
  | ral                                   -- R615
  | rar                                   -- R616
  | cma                                   -- R617
  | cmc                                   -- R618
  | stc                                   -- R619
  -- control transfer
  | jmp (nn : Word)                       -- R701
  | jnz (nn : Word)                       -- R702
  | jz (nn : Word)                        -- R703
  | jnc (nn : Word)                       -- R704
  | jc (nn : Word)                        -- R705
  | jpo (nn : Word)                       -- R706
  | jpe (nn : Word)                       -- R707
  | jp (nn : Word)                        -- R708
  | jm (nn : Word)                        -- R709
  | call (nn : Word)                      -- R710
  | cnz (nn : Word)                       -- R711
  | cz (nn : Word)                        -- R712
  | cnc (nn : Word)                       -- R713
  | cc (nn : Word)                        -- R714
  | cpo (nn : Word)                       -- R715
  | cpe (nn : Word)                       -- R716
  | cp (nn : Word)                        -- R717
  | cm (nn : Word)                        -- R718
  | ret                                   -- R719
  | rnz                                   -- R720
  | rz                                    -- R721
  | rnc                                   -- R722
  | rc                                    -- R723
  | rpo                                   -- R724
  | rpe                                   -- R725
  | rp                                    -- R726
  | rm                                    -- R727
  | rst (n : BitVec 3)                    -- R728
  | pchl                                  -- R729
  -- stack, I/O, machine control
  | pushRp (pr : Pair)                    -- R800
  | pushPsw                               -- R801
  | popRp (pr : Pair)                     -- R802
  | popPsw                                -- R803
  | xthl                                  -- R804
  | sphl                                  -- R805
  | inp (p : Byte)                        -- R806
  | out (p : Byte)                        -- R807
  | ei                                    -- R809
  | di                                    -- R810
  | nop                                   -- R811
  | hlt                                   -- R812
  -- officially undefined opcodes
  | undefNop (x : BitVec 3)               -- R813, `xxx` of 00xxx000
  | undefJmp (nn : Word)                  -- R814
  | undefRet                              -- R815
  | undefCall (x : BitVec 2) (nn : Word)  -- R816, `xx` of 11xx1101
deriving DecidableEq, Repr

end Sys2Proof
end

