-- ==== Sys2Proof/Machine/State.lean ====
section
/-! DEFINITION. The state of the machine as plain data (10_state.md), the reasons a step can stop, and the state after
reset. The CPU's registers and latches stand in State; what devices share (scheduler, pins, request latches) in Bus. -/

namespace Sys2Proof.Machine

/-! ### Memory -/

/-- The memory collaborator's stored bytes (R208): (plane × 65536 + address, byte) pairs, keys strictly rising. A key
that is not listed holds nothing that was written: reading it gives a free value (notes/assumptions/1.md). -/
abbrev Memory := List Host.Cell

/-! ### Scheduler, pins and devices -/

/-- A scheduled event (R930): device, absolute trigger cycle (negative is past-dated, R953), parameter, sequence
number. -/
structure Event where
  dev : Nat
  trigger : Int
  param : Int
  seq : Nat
deriving DecidableEq, Repr

/-- A device's internal fields (R961 to R964; a platform device: what it shows at each port and the last byte written
to it). -/
inductive DeviceFields where
  | divider (lvl : Bool)
  | decoder (phase last : Bool) (zrun : Nat)
  | sampler (latch prev : Bool)
  | autoReset
  | platform (shows : List (Byte × ByteExpr)) (lastOut : Byte)
deriving DecidableEq, Repr

/-- A device: the driven level of each of its pins (R940) and its internal fields. -/
structure DeviceState where
  levels : List Bool
  fields : DeviceFields
deriving DecidableEq, Repr

/-- A call the block makes to a device's port handler, or to a platform device's callback or notification handler:
what R970 lets the outside observe. -/
inductive PlatformCall where
  | fired (dev : Nat) (param : Int)
  | notified (dev : Nat) (pin : Nat) (level : Bool)
  | input (dev : Nat) (port : Byte)
  | output (dev : Nat) (port : Byte) (value : Byte)
deriving DecidableEq, Repr

/-- What the devices and the engine share: scheduler (R127), devices and pins (R128), request latches (R123, R124). -/
structure Bus where
  /-- Pending events in insertion order (R930). -/
  events : List Event
  /-- The next event's sequence number (R931). -/
  nextSeq : Nat
  /-- The devices in assembly order. -/
  devs : List DeviceState
  /-- INTREQ (R123). -/
  intReq : Bool
  /-- INTVEC (R123). -/
  intVec : Word
  /-- RSTREQ (R124). -/
  rstReq : Bool
  /-- The model's own field: calls made to devices since reset, oldest first (notes/assumptions/8.md). -/
  calls : List PlatformCall
  /-- The model's own field: how many free port values have been used (notes/assumptions/9.md). -/
  frees : Nat
deriving DecidableEq, Repr

/-! ### The machine -/

/-- Everything the spec gives the machine, and the configuration it runs under. -/
structure State where
  /-- The accumulator (R101). -/
  a : Byte
  b : Byte
  c : Byte
  d : Byte
  e : Byte
  h : Byte
  l : Byte
  /-- The flag byte: S 7, Z 6, AC 4, P 2, CY 0; bits 5, 3, 1 fixed (R107, R108). -/
  f : Byte
  sp : Word
  pc : Word
  /-- IE (R120). -/
  ie : Bool
  /-- DLY, the disable-delay flag (R121). -/
  dly : Bool
  /-- HALTED (R122). -/
  halted : Bool
  /-- CYC, the cycle counter, as an unbounded natural number (R125, D34; notes/assumptions/6.md). -/
  cyc : Nat
  /-- MEM's stored bytes (R208). -/
  mem : Memory
  /-- MEM's bank latch, for a memory map that has one (R208, R210; notes/assumptions/1.md). -/
  bank : Byte
  /-- The writes to addresses that the platform answers by its own means, oldest first (R208; notes/assumptions/1.md). -/
  outside : List (Word × Byte)
  bus : Bus
  /-- Configuration (R10); no step changes it. -/
  par : Params
  /-- Configuration (R126, R128); no step changes it. -/
  asm : Assembly
  /-- The model's own field: the exclusion mask of the `exec` call a step is a pass of (R901; notes/assumptions/18.md). -/
  exclMask : Byte
deriving DecidableEq, Repr

/-- Why the machine stops. No instruction and no access faults (R17, R918). -/
inductive Fault where
  /-- Raised by a pin notification that leads back to itself without end: the propagation does not terminate, so there
  is no next state (R945, I8 `stuck`). Safe: the machine of the source would hang there. -/
  | notificationHang
deriving DecidableEq, Repr

/-- Why the model has no meaning to give. -/
inductive Refusal where
  /-- Raised by `exec` for an instruction without a meaning. Safe. No arm raises it in this model. -/
  | notModelled (mnemonic : String)
  /-- Raised where a machine is assembled from an ill-formed configuration: "fatal, non-recoverable", no initial state
  (R950 to R952, I9 `refuse`), and by an `exec` call under a cost table with a cost of 0, which R903 excludes. Safe. -/
  | configurationError
deriving DecidableEq, Repr

/-- What an instruction's meaning answers. -/
abbrev Result := Host.Outcome State Fault Refusal

/-- The bus after reset with nothing assembled: no events, no devices, no requests (R1001 steps 2 and 3). -/
def Bus.empty : Bus where
  events := []
  nextSeq := 0
  devs := []
  intReq := false
  intVec := 0x0000#16
  rstReq := false
  calls := []
  frees := 0

/-- The machine right after reset (R130, R1001), with the default parameters and nothing assembled. -/
def State.reset : State where
  a := 0x00#8
  b := 0x00#8
  c := 0x00#8
  d := 0x00#8
  e := 0x00#8
  h := 0x00#8
  l := 0x00#8
  f := 0x02#8
  sp := 0x0000#16
  pc := 0x0000#16
  ie := false
  dly := false
  halted := false
  cyc := 0
  mem := []
  bank := 0x00#8
  outside := []
  bus := Bus.empty
  par := Params.default
  asm := Assembly.empty
  exclMask := 0x00#8

end Sys2Proof.Machine
end

