-- ==== Sys2Proof/Machine/Flags.lean ====
section
/-! DEFINITION. The flags and every flag computation of the spec (10_state.md R107 to R114), and the results that come
with them. Values are computed exactly, as integers, and narrowed when stored (R13). -/

namespace Sys2Proof.Machine

/-- The five flags (R107). -/
inductive Flag where
  | s | z | ac | p | cy
deriving DecidableEq, Repr

/-- The bit of F that holds a flag (R107). -/
def Flag.bit : Flag → Nat
  | .s => 7
  | .z => 6
  | .ac => 4
  | .p => 2
  | .cy => 0

/-- A byte with one bit replaced. -/
def putBit (v : Byte) (i : Nat) (x : Bool) : Byte :=
  if x then v ||| (1#8 <<< i) else v &&& ~~~(1#8 <<< i)

/-- What a write of F stores: `(v & FLAG_AND_MASK) | FLAG_OR_MASK` (R108). -/
def fixF (par : Params) (v : Byte) : Byte := (v &&& par.flagAnd) ||| par.flagOr

/-- A flag's value. -/
def State.flag (s : State) (k : Flag) : Bool := s.f.getLsbD k.bit

/-- Writes the flag byte, the fixed bits re-applied (R108). -/
def State.writeF (s : State) (v : Byte) : State := { s with f := fixF s.par v }

/-- A flag byte with the named flags replaced. -/
def putFlags (v : Byte) : List (Flag × Bool) → Byte
  | [] => v
  | (k, x) :: rest => putFlags (putBit v k.bit x) rest

/-- Writes exactly the flags named; every other flag keeps its value (R109). -/
def State.setFlags (s : State) (flags : List (Flag × Bool)) : State := s.writeF (putFlags s.f flags)

/-- 1 when the byte has an even number of 1 bits (R110). -/
def parity (x : Byte) : Bool :=
  !(x.getLsbD 0 ^^ x.getLsbD 1 ^^ x.getLsbD 2 ^^ x.getLsbD 3
    ^^ x.getLsbD 4 ^^ x.getLsbD 5 ^^ x.getLsbD 6 ^^ x.getLsbD 7)

/-- `setSZP(x)` (R111). -/
def szp (x : Byte) : List (Flag × Bool) := [(.s, x.getLsbD 7), (.z, x == 0x00#8), (.p, parity x)]

/-- The low nibble of a byte, as a number. -/
def nibble (x : Byte) : Nat := x.toNat % 16

/-- A result byte and the flags written with it. -/
structure Alu where
  val : Byte
  flags : List (Flag × Bool)
deriving DecidableEq, Repr

/-- `a + b + cin` with the addition flags (R112, R501). -/
def addAlu (a b : Byte) (cin : Bool) : Alu :=
  let res := a.toNat + b.toNat + cin.toNat
  let val := BitVec.ofNat 8 res
  ⟨val, (.cy, decide (res > 0xFF)) :: (.ac, decide (nibble a + nibble b + cin.toNat > 0xF)) :: szp val⟩

/-- `a - b - bin` with the subtraction flags: CY set on borrow, AC set when the low nibble needs no borrow (R113,
R507). -/
def subAlu (a b : Byte) (bin : Bool) : Alu :=
  let res : Int := (a.toNat : Int) - b.toNat - bin.toNat
  let val := BitVec.ofInt 8 res
  ⟨val, (.cy, decide (res < 0)) :: (.ac, decide ((nibble a : Int) - nibble b - bin.toNat ≥ 0)) :: szp val⟩

/-- `a & b`: CY = 0, AC = bit 3 of the OR of the operands (R601). -/
def andAlu (a b : Byte) : Alu :=
  ⟨a &&& b, (.ac, (a ||| b).getLsbD 3) :: (.cy, false) :: szp (a &&& b)⟩

/-- `a ^ b`: CY = 0, AC = 0 (R604). -/
def xorAlu (a b : Byte) : Alu :=
  ⟨a ^^^ b, (.cy, false) :: (.ac, false) :: szp (a ^^^ b)⟩

/-- `a | b`: CY = 0, AC = 0 (R607). -/
def orAlu (a b : Byte) : Alu :=
  ⟨a ||| b, (.cy, false) :: (.ac, false) :: szp (a ||| b)⟩

/-- `v + 1`: S, Z, P, and AC set when the low nibble is 0xF; CY is not written (R513). -/
def incAlu (v : Byte) : Alu :=
  let w := BitVec.ofNat 8 (v.toNat + 1)
  ⟨w, (.ac, decide (nibble v = 0xF)) :: szp w⟩

/-- `v - 1`: S, Z, P, and AC set unless the low nibble is 0; CY is not written (R515). -/
def decAlu (v : Byte) : Alu :=
  let w := BitVec.ofInt 8 ((v.toNat : Int) - 1)
  ⟨w, (.ac, decide (nibble v ≠ 0)) :: szp w⟩

/-- The decimal adjustment of `a` under AC and CY (R520). -/
def daaAlu (a : Byte) (ac cy : Bool) : Alu :=
  let lo := nibble a
  let hi := a.toNat / 16
  let low := if ac || decide (lo > 9) then 0x06 else 0
  let high := cy || decide (hi > 9) || (decide (hi ≥ 9) && decide (lo > 9))
  let corr := if high then low + 0x60 else low
  let val := BitVec.ofNat 8 (a.toNat + corr)
  ⟨val, (.ac, decide (lo + corr % 16 > 0xF)) :: (.cy, high) :: szp val⟩

/-- `HL + rp` with its carry (R519). -/
def dadAlu (hl rp : Word) : Word × Bool :=
  let res := hl.toNat + rp.toNat
  (BitVec.ofNat 16 res, decide (res > 0xFFFF))

/-- RLC: the byte and the new CY (R613). -/
def rlcAlu (a : Byte) : Byte × Bool :=
  let b := a.getLsbD 7
  (a <<< 1 ||| (if b then 1#8 else 0#8), b)

/-- RRC (R614). -/
def rrcAlu (a : Byte) : Byte × Bool :=
  let b := a.getLsbD 0
  (a >>> 1 ||| (if b then 1#8 else 0#8) <<< 7, b)

/-- RAL: the old CY comes in at bit 0 (R615). -/
def ralAlu (a : Byte) (cy : Bool) : Byte × Bool :=
  (a <<< 1 ||| (if cy then 1#8 else 0#8), a.getLsbD 7)

/-- RAR: the old CY comes in at bit 7 (R616). -/
def rarAlu (a : Byte) (cy : Bool) : Byte × Bool :=
  (a >>> 1 ||| (if cy then 1#8 else 0#8) <<< 7, a.getLsbD 0)

end Sys2Proof.Machine
end

