-- ==== Sys2Proof/WellFormed.lean ====
section
/-! DEFINITION. Which terms of Instr are instructions: the operand values that the spec's encodings admit. Every
other operand (any register, any immediate, any restart number) is legal (30_encoding.md R311). -/

namespace Sys2Proof

/-- The pairs LDAX and STAX can use: BC and DE (R304, R411, R412). -/
def Pair.isIndex : Pair → Bool
  | .bc | .de => true
  | .hl | .sp => false

/-- The pairs PUSH and POP can use beside PSW: BC, DE and HL (R304, R800, R802). -/
def Pair.isStack : Pair → Bool
  | .bc | .de | .hl => true
  | .sp => false

/-- The operand checks: the pair of LDAX, STAX, PUSH and POP, and the slot numbers of `*NOP` (001 to 111, R813) and
`*CALL` (01, 10, 11, R816). -/
def Instr.wf : Instr → Bool
  | .ldax pr | .stax pr => pr.isIndex
  | .pushRp pr | .popRp pr => pr.isStack
  | .undefNop x => x != 0#3
  | .undefCall x _ => x != 0#2
  | .movRR _ _ | .movRM _ | .movMR _ | .mviR _ _ | .mviM _ | .lxi _ _ | .lda _ | .sta _ | .lhld _ | .shld _
  | .xchg | .addR _ | .addM | .adi _ | .adcR _ | .adcM | .aci _ | .subR _ | .subM | .sui _ | .sbbR _ | .sbbM
  | .sbi _ | .inrR _ | .inrM | .dcrR _ | .dcrM | .inx _ | .dcx _ | .dad _ | .daa | .anaR _ | .anaM | .ani _
  | .xraR _ | .xraM | .xri _ | .oraR _ | .oraM | .ori _ | .cmpR _ | .cmpM | .cpi _ | .rlc | .rrc | .ral | .rar
  | .cma | .cmc | .stc | .jmp _ | .jnz _ | .jz _ | .jnc _ | .jc _ | .jpo _ | .jpe _ | .jp _ | .jm _ | .call _
  | .cnz _ | .cz _ | .cnc _ | .cc _ | .cpo _ | .cpe _ | .cp _ | .cm _ | .ret | .rnz | .rz | .rnc | .rc | .rpo
  | .rpe | .rp | .rm | .rst _ | .pchl | .pushPsw | .popPsw | .xthl | .sphl | .inp _ | .out _ | .ei | .di | .nop
  | .hlt | .undefJmp _ | .undefRet => true

end Sys2Proof
end

