-- ==== Sys2Proof/Decode.lean ====
section
/-! DEFINITION. The decoder and, after it, the encoder (30_encoding.md). The decoder goes by the fields of R302 to
R309; the encoder writes the bit patterns of each instruction's own rule. -/

namespace Sys2Proof

/-! ### Bit fields and byte order -/

/-- `{hi, lo}`: the 16-bit value with `hi` in the upper byte (R13). -/
def join (hi lo : Byte) : Word := hi ++ lo

/-- Bits [15:8] of a word. -/
def hiByte (w : Word) : Byte := w.extractLsb' 8 8

/-- Bits [7:0] of a word. -/
def loByte (w : Word) : Byte := w.extractLsb' 0 8

/-- `ddd`, `ccc`, `nnn`: bits [5:3] of the opcode (R302). -/
def fieldD (op : Byte) : BitVec 3 := op.extractLsb' 3 3

/-- `sss`: bits [2:0] of the opcode (R302). -/
def fieldS (op : Byte) : BitVec 3 := op.extractLsb' 0 3

/-- `rp`: bits [5:4] of the opcode (R302). -/
def fieldP (op : Byte) : BitVec 2 := op.extractLsb' 4 2

/-- The quadrant: bits [7:6] of the opcode (R308). -/
def fieldQ (op : Byte) : BitVec 2 := op.extractLsb' 6 2

/-- The register of a `ddd` or `sss` code; code `110` is M, no register (R303). -/
def regOf (code : BitVec 3) : Option Reg :=
  match code.toNat with
  | 0 => some .b
  | 1 => some .c
  | 2 => some .d
  | 3 => some .e
  | 4 => some .h
  | 5 => some .l
  | 6 => none
  | _ => some .a

/-- The pair of an `rp` code, code `11` read as SP (R304). -/
def pairOf (code : BitVec 2) : Pair :=
  match code.toNat with
  | 0 => .bc
  | 1 => .de
  | 2 => .hl
  | _ => .sp

/-- Chooses the register form or the M form of an instruction by a register code (R303). -/
def regOrM (code : BitVec 3) (r : Reg → Instr) (m : Instr) : Instr :=
  match regOf code with
  | some x => r x
  | none => m

/-! ### The four quadrants (R308, R309) -/

/-- Column 2 of quadrant `00`: the direct and indirect loads and stores (R407 to R412). -/
def decodeDirect (d : BitVec 3) (nn : Word) : Instr :=
  match d.toNat with
  | 0 => .stax .bc
  | 1 => .ldax .bc
  | 2 => .stax .de
  | 3 => .ldax .de
  | 4 => .shld nn
  | 5 => .lhld nn
  | 6 => .sta nn
  | _ => .lda nn

/-- Column 7 of quadrant `00`: rotates, accumulator and carry operations (R520, R613 to R619). -/
def decodeAccumulator (d : BitVec 3) : Instr :=
  match d.toNat with
  | 0 => .rlc
  | 1 => .rrc
  | 2 => .ral
  | 3 => .rar
  | 4 => .daa
  | 5 => .cma
  | 6 => .stc
  | _ => .cmc

/-- Quadrant `00`. -/
def decodeQ0 (op n : Byte) (nn : Word) : Instr :=
  let d := fieldD op
  let p := pairOf (fieldP op)
  let odd := op.getLsbD 3
  match (fieldS op).toNat with
  | 0 => if d = 0#3 then .nop else .undefNop d
  | 1 => if odd then .dad p else .lxi p nn
  | 2 => decodeDirect d nn
  | 3 => if odd then .dcx p else .inx p
  | 4 => regOrM d .inrR .inrM
  | 5 => regOrM d .dcrR .dcrM
  | 6 => regOrM d (.mviR · n) (.mviM n)
  | _ => decodeAccumulator d

/-- Quadrant `01`: MOV, and HLT in place of `MOV M,M`. -/
def decodeMov (op : Byte) : Instr :=
  match regOf (fieldD op), regOf (fieldS op) with
  | some dst, some src => .movRR dst src
  | some dst, none => .movRM dst
  | none, some src => .movMR src
  | none, none => .hlt

/-- Quadrant `10`: the eight accumulator operations on a register or M. -/
def decodeAlu (op : Byte) : Instr :=
  let s := fieldS op
  match (fieldD op).toNat with
  | 0 => regOrM s .addR .addM
  | 1 => regOrM s .adcR .adcM
  | 2 => regOrM s .subR .subM
  | 3 => regOrM s .sbbR .sbbM
  | 4 => regOrM s .anaR .anaM
  | 5 => regOrM s .xraR .xraM
  | 6 => regOrM s .oraR .oraM
  | _ => regOrM s .cmpR .cmpM

/-- Column 6 of quadrant `11`: the eight immediate accumulator operations, in the order of quadrant `10`. -/
def decodeAluImm (d : BitVec 3) (n : Byte) : Instr :=
  match d.toNat with
  | 0 => .adi n
  | 1 => .aci n
  | 2 => .sui n
  | 3 => .sbi n
  | 4 => .ani n
  | 5 => .xri n
  | 6 => .ori n
  | _ => .cpi n

/-- Column 0 of quadrant `11`: the conditional returns, by `ccc` (R305). -/
def decodeReturnIf (d : BitVec 3) : Instr :=
  match d.toNat with
  | 0 => .rnz
  | 1 => .rz
  | 2 => .rnc
  | 3 => .rc
  | 4 => .rpo
  | 5 => .rpe
  | 6 => .rp
  | _ => .rm

/-- Column 2 of quadrant `11`: the conditional jumps, by `ccc`. -/
def decodeJumpIf (d : BitVec 3) (nn : Word) : Instr :=
  match d.toNat with
  | 0 => .jnz nn
  | 1 => .jz nn
  | 2 => .jnc nn
  | 3 => .jc nn
  | 4 => .jpo nn
  | 5 => .jpe nn
  | 6 => .jp nn
  | _ => .jm nn

/-- Column 4 of quadrant `11`: the conditional calls, by `ccc`. -/
def decodeCallIf (d : BitVec 3) (nn : Word) : Instr :=
  match d.toNat with
  | 0 => .cnz nn
  | 1 => .cz nn
  | 2 => .cnc nn
  | 3 => .cc nn
  | 4 => .cpo nn
  | 5 => .cpe nn
  | 6 => .cp nn
  | _ => .cm nn

/-- Column 1 of quadrant `11`: POP, and RET, `*RET`, PCHL, SPHL. -/
def decodePopRet (d : BitVec 3) : Instr :=
  match d.toNat with
  | 0 => .popRp .bc
  | 1 => .ret
  | 2 => .popRp .de
  | 3 => .undefRet
  | 4 => .popRp .hl
  | 5 => .pchl
  | 6 => .popPsw
  | _ => .sphl

/-- Column 3 of quadrant `11`: JMP, `*JMP`, I/O, exchanges, DI and EI. -/
def decodeMachine (d : BitVec 3) (n : Byte) (nn : Word) : Instr :=
  match d.toNat with
  | 0 => .jmp nn
  | 1 => .undefJmp nn
  | 2 => .out n
  | 3 => .inp n
  | 4 => .xthl
  | 5 => .xchg
  | 6 => .di
  | _ => .ei

/-- Column 5 of quadrant `11`: PUSH, CALL and the three `*CALL` slots. -/
def decodePushCall (d : BitVec 3) (nn : Word) : Instr :=
  match d.toNat with
  | 0 => .pushRp .bc
  | 1 => .call nn
  | 2 => .pushRp .de
  | 3 => .undefCall 1#2 nn
  | 4 => .pushRp .hl
  | 5 => .undefCall 2#2 nn
  | 6 => .pushPsw
  | _ => .undefCall 3#2 nn

/-- Quadrant `11`. -/
def decodeQ3 (op n : Byte) (nn : Word) : Instr :=
  let d := fieldD op
  match (fieldS op).toNat with
  | 0 => decodeReturnIf d
  | 1 => decodePopRet d
  | 2 => decodeJumpIf d nn
  | 3 => decodeMachine d n nn
  | 4 => decodeCallIf d nn
  | 5 => decodePushCall d nn
  | 6 => decodeAluImm d n
  | _ => .rst d

/-- The instruction of an opcode byte and the two bytes after it, total (R310). `imm8` is the second byte and
`imm16` the third and second, low byte first (R306). Operand bytes that the opcode does not take are ignored. -/
def decodeBytes (op b1 b2 : Byte) : Instr :=
  let nn := join b2 b1
  match (fieldQ op).toNat with
  | 0 => decodeQ0 op b1 nn
  | 1 => decodeMov op
  | 2 => decodeAlu op
  | _ => decodeQ3 op b1 nn

/-! ### Lengths and the decoder over a list of bytes -/

/-- The length in bytes (R302, R313). -/
def Instr.length : Instr → Nat
  | .lxi _ _ | .lda _ | .sta _ | .lhld _ | .shld _
  | .jmp _ | .jnz _ | .jz _ | .jnc _ | .jc _ | .jpo _ | .jpe _ | .jp _ | .jm _
  | .call _ | .cnz _ | .cz _ | .cnc _ | .cc _ | .cpo _ | .cpe _ | .cp _ | .cm _
  | .undefJmp _ | .undefCall _ _ => 3
  | .mviR _ _ | .mviM _ | .adi _ | .aci _ | .sui _ | .sbi _ | .ani _ | .xri _ | .ori _ | .cpi _
  | .inp _ | .out _ => 2
  | .movRR _ _ | .movRM _ | .movMR _ | .ldax _ | .stax _ | .xchg | .addR _ | .addM | .adcR _ | .adcM | .subR _
  | .subM | .sbbR _ | .sbbM | .inrR _ | .inrM | .dcrR _ | .dcrM | .inx _ | .dcx _ | .dad _ | .daa | .anaR _
  | .anaM | .xraR _ | .xraM | .oraR _ | .oraM | .cmpR _ | .cmpM | .rlc | .rrc | .ral | .rar | .cma | .cmc | .stc
  | .ret | .rnz | .rz | .rnc | .rc | .rpo | .rpe | .rp | .rm | .rst _ | .pchl | .pushRp _ | .pushPsw | .popRp _
  | .popPsw | .xthl | .sphl | .ei | .di | .nop | .hlt | .undefNop _ | .undefRet => 1

/-- Why a list of bytes is no instruction. No opcode is refused (R310): only a list that ends too early is. -/
inductive DecodeError where
  /-- The list holds no byte at all. -/
  | noOpcode
  /-- The list ends before the instruction's operand bytes do. -/
  | missingOperand
deriving DecidableEq, Repr

/-- Decodes the instruction at the front of a list of bytes and returns the bytes after it. -/
def decode : List Byte → Except DecodeError (Instr × List Byte)
  | [] => .error .noOpcode
  | op :: rest =>
    let i := decodeBytes op (rest[0]?.getD 0#8) (rest[1]?.getD 0#8)
    if rest.length + 1 < i.length then .error .missingOperand
    else .ok (i, rest.drop (i.length - 1))

/-- The instruction the decoder reads from a word numbered as spec/opcode_table.json numbers bits: bit 0 is the least
significant bit of the first byte. The bits from `nbits` up are 0. Fewer than 8 bits hold no opcode. -/
def decodeTableWord (nbits w : Nat) : Option Instr :=
  if nbits < 8 then none
  else
    let v := w % 2 ^ nbits
    match decode [BitVec.ofNat 8 v, BitVec.ofNat 8 (v / 256), BitVec.ofNat 8 (v / 65536)] with
    | .ok (i, _) => some i
    | .error _ => none

/-! ### The encoder -/

/-- The code of a register (R303). -/
def Reg.code : Reg → BitVec 3
  | .b => 0b000#3
  | .c => 0b001#3
  | .d => 0b010#3
  | .e => 0b011#3
  | .h => 0b100#3
  | .l => 0b101#3
  | .a => 0b111#3

/-- The code of a pair (R304). -/
def Pair.code : Pair → BitVec 2
  | .bc => 0b00#2
  | .de => 0b01#2
  | .hl => 0b10#2
  | .sp => 0b11#2

/-- `01dddsss` (R401 to R403). -/
def opMov (d s : BitVec 3) : Byte := 0b01#2 ++ d ++ s

/-- `00ddd` and a column (R404, R513, R515). -/
def opUnary (d column : BitVec 3) : Byte := 0b00#2 ++ d ++ column

/-- `10ooosss` (R501 to R510, R601 to R610). -/
def opAlu (o s : BitVec 3) : Byte := 0b10#2 ++ o ++ s

/-- `11` and a `ccc` or `nnn` field and a column (R702 to R728). -/
def opHigh (d column : BitVec 3) : Byte := 0b11#2 ++ d ++ column

/-- `00pp` and a low nibble (R406, R517 to R519). -/
def opPair (p : Pair) (low : BitVec 4) : Byte := 0b00#2 ++ p.code ++ low

/-- The opcode byte of an instruction, from the `Encoding` line of its rule. -/
def Instr.opcode : Instr → Byte
  | .movRR dst src => opMov dst.code src.code
  | .movRM dst => opMov dst.code 0b110#3
  | .movMR src => opMov 0b110#3 src.code
  | .mviR dst _ => opUnary dst.code 0b110#3
  | .mviM _ => 0b00110110#8
  | .lxi pr _ => opPair pr 0b0001#4
  | .lda _ => 0b00111010#8
  | .sta _ => 0b00110010#8
  | .lhld _ => 0b00101010#8
  | .shld _ => 0b00100010#8
  | .ldax pr => opPair pr 0b1010#4
  | .stax pr => opPair pr 0b0010#4
  | .xchg => 0b11101011#8
  | .addR src => opAlu 0b000#3 src.code
  | .addM => 0b10000110#8
  | .adi _ => 0b11000110#8
  | .adcR src => opAlu 0b001#3 src.code
  | .adcM => 0b10001110#8
  | .aci _ => 0b11001110#8
  | .subR src => opAlu 0b010#3 src.code
  | .subM => 0b10010110#8
  | .sui _ => 0b11010110#8
  | .sbbR src => opAlu 0b011#3 src.code
  | .sbbM => 0b10011110#8
  | .sbi _ => 0b11011110#8
  | .inrR dst => opUnary dst.code 0b100#3
  | .inrM => 0b00110100#8
  | .dcrR dst => opUnary dst.code 0b101#3
  | .dcrM => 0b00110101#8
  | .inx pr => opPair pr 0b0011#4
  | .dcx pr => opPair pr 0b1011#4
  | .dad pr => opPair pr 0b1001#4
  | .daa => 0b00100111#8
  | .anaR src => opAlu 0b100#3 src.code
  | .anaM => 0b10100110#8
  | .ani _ => 0b11100110#8
  | .xraR src => opAlu 0b101#3 src.code
  | .xraM => 0b10101110#8
  | .xri _ => 0b11101110#8
  | .oraR src => opAlu 0b110#3 src.code
  | .oraM => 0b10110110#8
  | .ori _ => 0b11110110#8
  | .cmpR src => opAlu 0b111#3 src.code
  | .cmpM => 0b10111110#8
  | .cpi _ => 0b11111110#8
  | .rlc => 0b00000111#8
  | .rrc => 0b00001111#8
  | .ral => 0b00010111#8
  | .rar => 0b00011111#8
  | .cma => 0b00101111#8
  | .cmc => 0b00111111#8
  | .stc => 0b00110111#8
  | .jmp _ => 0b11000011#8
  | .jnz _ => opHigh 0b000#3 0b010#3
  | .jz _ => opHigh 0b001#3 0b010#3
  | .jnc _ => opHigh 0b010#3 0b010#3
  | .jc _ => opHigh 0b011#3 0b010#3
  | .jpo _ => opHigh 0b100#3 0b010#3
  | .jpe _ => opHigh 0b101#3 0b010#3
  | .jp _ => opHigh 0b110#3 0b010#3
  | .jm _ => opHigh 0b111#3 0b010#3
  | .call _ => 0b11001101#8
  | .cnz _ => opHigh 0b000#3 0b100#3
  | .cz _ => opHigh 0b001#3 0b100#3
  | .cnc _ => opHigh 0b010#3 0b100#3
  | .cc _ => opHigh 0b011#3 0b100#3
  | .cpo _ => opHigh 0b100#3 0b100#3
  | .cpe _ => opHigh 0b101#3 0b100#3
  | .cp _ => opHigh 0b110#3 0b100#3
  | .cm _ => opHigh 0b111#3 0b100#3
  | .ret => 0b11001001#8
  | .rnz => opHigh 0b000#3 0b000#3
  | .rz => opHigh 0b001#3 0b000#3
  | .rnc => opHigh 0b010#3 0b000#3
  | .rc => opHigh 0b011#3 0b000#3
  | .rpo => opHigh 0b100#3 0b000#3
  | .rpe => opHigh 0b101#3 0b000#3
  | .rp => opHigh 0b110#3 0b000#3
  | .rm => opHigh 0b111#3 0b000#3
  | .rst n => opHigh n 0b111#3
  | .pchl => 0b11101001#8
  | .pushRp pr => 0b11#2 ++ pr.code ++ 0b0101#4
  | .pushPsw => 0b11110101#8
  | .popRp pr => 0b11#2 ++ pr.code ++ 0b0001#4
  | .popPsw => 0b11110001#8
  | .xthl => 0b11100011#8
  | .sphl => 0b11111001#8
  | .inp _ => 0b11011011#8
  | .out _ => 0b11010011#8
  | .ei => 0b11111011#8
  | .di => 0b11110011#8
  | .nop => 0b00000000#8
  | .hlt => 0b01110110#8
  | .undefNop x => opUnary x 0b000#3
  | .undefJmp _ => 0b11001011#8
  | .undefRet => 0b11011001#8
  | .undefCall x _ => 0b11#2 ++ x ++ 0b1101#4

/-- The operand bytes after the opcode: none (F1), `imm8` (F2), or `imm16` low byte first (F3) (R302, R306). -/
def Instr.operandBytes : Instr → List Byte
  | .mviR _ n | .mviM n | .adi n | .aci n | .sui n | .sbi n | .ani n | .xri n | .ori n | .cpi n
  | .inp n | .out n => [n]
  | .lxi _ nn | .lda nn | .sta nn | .lhld nn | .shld nn
  | .jmp nn | .jnz nn | .jz nn | .jnc nn | .jc nn | .jpo nn | .jpe nn | .jp nn | .jm nn
  | .call nn | .cnz nn | .cz nn | .cnc nn | .cc nn | .cpo nn | .cpe nn | .cp nn | .cm nn
  | .undefJmp nn | .undefCall _ nn => [loByte nn, hiByte nn]
  | .movRR _ _ | .movRM _ | .movMR _ | .ldax _ | .stax _ | .xchg | .addR _ | .addM | .adcR _ | .adcM | .subR _
  | .subM | .sbbR _ | .sbbM | .inrR _ | .inrM | .dcrR _ | .dcrM | .inx _ | .dcx _ | .dad _ | .daa | .anaR _
  | .anaM | .xraR _ | .xraM | .oraR _ | .oraM | .cmpR _ | .cmpM | .rlc | .rrc | .ral | .rar | .cma | .cmc | .stc
  | .ret | .rnz | .rz | .rnc | .rc | .rpo | .rpe | .rp | .rm | .rst _ | .pchl | .pushRp _ | .pushPsw | .popRp _
  | .popPsw | .xthl | .sphl | .ei | .di | .nop | .hlt | .undefNop _ | .undefRet => []

/-- The bytes of an instruction, the first at the lowest address. -/
def encode (i : Instr) : List Byte := i.opcode :: i.operandBytes

end Sys2Proof
end

