-- ==== Sys2Proof/Machine/OpTable.lean ====
section
/-! DEFINITION. The opcode table's classification mask and base cost (R126, R320, R321, R1021). The length is
`Instr.length` (Sys2Proof/Decode.lean), the action `exec` (Machine/Dispatch.lean). -/

namespace Sys2Proof.Machine

/-- `mem-read` (R320). -/
def classMemRead : Byte := 0x01#8
/-- `mem-write` (R320). -/
def classMemWrite : Byte := 0x02#8
/-- `IO` (R320). -/
def classIo : Byte := 0x04#8
/-- `call` (R320). -/
def classCall : Byte := 0x08#8
/-- `return` (R320). -/
def classReturn : Byte := 0x10#8
/-- `jump` (R320). -/
def classJump : Byte := 0x20#8
/-- `halt` (R320). -/
def classHalt : Byte := 0x40#8
/-- `undefined` (R320). -/
def classUndefined : Byte := 0x80#8

/-- The class mask of the table's rows, fixed by the opcode alone (R320, R321). -/
def tableClass : Instr → Byte
  | .movRM _ | .lda _ | .lhld _ | .ldax _ | .addM | .adcM | .subM | .sbbM | .anaM | .xraM | .oraM | .cmpM
  | .popRp _ | .popPsw => classMemRead
  | .movMR _ | .mviM _ | .sta _ | .stax _ | .shld _ | .pushRp _ | .pushPsw => classMemWrite
  | .inrM | .dcrM | .xthl => classMemRead ||| classMemWrite
  | .inp _ | .out _ => classIo
  | .call _ | .cnz _ | .cz _ | .cnc _ | .cc _ | .cpo _ | .cpe _ | .cp _ | .cm _ | .rst _ =>
    classCall ||| classMemWrite
  | .ret | .rnz | .rz | .rnc | .rc | .rpo | .rpe | .rp | .rm => classReturn ||| classMemRead
  | .jmp _ | .jnz _ | .jz _ | .jnc _ | .jc _ | .jpo _ | .jpe _ | .jp _ | .jm _ | .pchl => classJump
  | .hlt => classHalt
  | .undefNop _ => classUndefined
  | .undefJmp _ => classJump ||| classUndefined
  | .undefRet => classReturn ||| classMemRead ||| classUndefined
  | .undefCall _ _ => classCall ||| classMemWrite ||| classUndefined
  | .movRR _ _ | .mviR _ _ | .lxi _ _ | .xchg | .addR _ | .adi _ | .adcR _ | .aci _ | .subR _ | .sui _ | .sbbR _
  | .sbi _ | .inrR _ | .dcrR _ | .inx _ | .dcx _ | .dad _ | .daa | .anaR _ | .ani _ | .xraR _ | .xri _ | .oraR _
  | .ori _ | .cmpR _ | .cpi _ | .rlc | .rrc | .ral | .rar | .cma | .cmc | .stc | .sphl | .ei | .di | .nop => 0x00#8

/-- The officially undefined opcodes (R312). -/
def isUndefined : Instr → Bool
  | .undefNop _ | .undefJmp _ | .undefRet | .undefCall _ _ => true
  | .movRR _ _ | .movRM _ | .movMR _ | .mviR _ _ | .mviM _ | .lxi _ _ | .lda _ | .sta _ | .lhld _ | .shld _
  | .ldax _ | .stax _ | .xchg | .addR _ | .addM | .adi _ | .adcR _ | .adcM | .aci _ | .subR _ | .subM | .sui _
  | .sbbR _ | .sbbM | .sbi _ | .inrR _ | .inrM | .dcrR _ | .dcrM | .inx _ | .dcx _ | .dad _ | .daa | .anaR _
  | .anaM | .ani _ | .xraR _ | .xraM | .xri _ | .oraR _ | .oraM | .ori _ | .cmpR _ | .cmpM | .cpi _ | .rlc
  | .rrc | .ral | .rar | .cma | .cmc | .stc | .jmp _ | .jnz _ | .jz _ | .jnc _ | .jc _ | .jpo _ | .jpe _ | .jp _
  | .jm _ | .call _ | .cnz _ | .cz _ | .cnc _ | .cc _ | .cpo _ | .cpe _ | .cp _ | .cm _ | .ret | .rnz | .rz
  | .rnc | .rc | .rpo | .rpe | .rp | .rm | .rst _ | .pchl | .pushRp _ | .pushPsw | .popRp _ | .popPsw | .xthl
  | .sphl | .inp _ | .out _ | .ei | .di | .nop | .hlt => false

/-- The class mask an instruction has under the machine's UNDEF_ALIAS_MODE: with `nop` an undefined opcode has class
`undefined` alone (R817). -/
def classOf (par : Params) (i : Instr) : Byte :=
  match par.undefMode with
  | .isaAlias => tableClass i
  | .nop => if isUndefined i then classUndefined else tableClass i

/-- The default base cost, (taken, not taken), of R1021 and of the `return` of each rule; equal but for conditional
calls and returns. -/
def defaultCost : Instr → Nat × Nat
  | .movRR _ _ | .inrR _ | .dcrR _ | .inx _ | .dcx _ | .pchl | .sphl => (5, 5)
  | .movRM _ | .movMR _ | .mviR _ _ | .ldax _ | .stax _
  | .addM | .adcM | .subM | .sbbM | .anaM | .xraM | .oraM | .cmpM
  | .adi _ | .aci _ | .sui _ | .sbi _ | .ani _ | .xri _ | .ori _ | .cpi _ | .hlt => (7, 7)
  | .mviM _ | .lxi _ _ | .inrM | .dcrM | .dad _ | .jmp _ | .undefJmp _
  | .jnz _ | .jz _ | .jnc _ | .jc _ | .jpo _ | .jpe _ | .jp _ | .jm _
  | .ret | .undefRet | .popRp _ | .popPsw | .inp _ | .out _ => (10, 10)
  | .pushRp _ | .pushPsw | .rst _ => (11, 11)
  | .rnz | .rz | .rnc | .rc | .rpo | .rpe | .rp | .rm => (11, 5)
  | .lda _ | .sta _ => (13, 13)
  | .lhld _ | .shld _ => (16, 16)
  | .call _ | .undefCall _ _ => (17, 17)
  | .cnz _ | .cz _ | .cnc _ | .cc _ | .cpo _ | .cpe _ | .cp _ | .cm _ => (17, 11)
  | .xthl => (18, 18)
  | .nop | .undefNop _ | .xchg | .addR _ | .adcR _ | .subR _ | .sbbR _ | .anaR _ | .xraR _ | .oraR _ | .cmpR _
  | .daa | .rlc | .rrc | .ral | .rar | .cma | .cmc | .stc | .ei | .di => (4, 4)

/-- The instructions whose base cost depends on the outcome: the conditional calls and returns and no other (R700, R10:
"two values for conditional calls and returns"). -/
def costByOutcome : Instr → Bool
  | .cnz _ | .cz _ | .cnc _ | .cc _ | .cpo _ | .cpe _ | .cp _ | .cm _
  | .rnz | .rz | .rnc | .rc | .rpo | .rpe | .rp | .rm => true
  | .movRR _ _ | .movRM _ | .movMR _ | .mviR _ _ | .mviM _ | .lxi _ _ | .lda _ | .sta _ | .lhld _ | .shld _
  | .ldax _ | .stax _ | .xchg | .addR _ | .addM | .adi _ | .adcR _ | .adcM | .aci _ | .subR _ | .subM | .sui _
  | .sbbR _ | .sbbM | .sbi _ | .inrR _ | .inrM | .dcrR _ | .dcrM | .inx _ | .dcx _ | .dad _ | .daa | .anaR _
  | .anaM | .ani _ | .xraR _ | .xraM | .xri _ | .oraR _ | .oraM | .ori _ | .cmpR _ | .cmpM | .cpi _ | .rlc
  | .rrc | .ral | .rar | .cma | .cmc | .stc | .jmp _ | .jnz _ | .jz _ | .jnc _ | .jc _ | .jpo _ | .jpe _ | .jp _
  | .jm _ | .call _ | .ret | .rst _ | .pchl | .pushRp _ | .pushPsw | .popRp _ | .popPsw | .xthl | .sphl | .inp _
  | .out _ | .ei | .di | .nop | .hlt | .undefNop _ | .undefJmp _ | .undefRet | .undefCall _ _ => false

/-- `BASE_COST[op]` (R10, D4): the machine's exception for the opcode if it has one, else the default. The second of the
two values counts for a conditional call or return that is not taken (R700). -/
def baseCost (par : Params) (i : Instr) (taken : Bool) : Nat :=
  let cost := (par.costs.lookup i.opcode).getD (defaultCost i)
  if taken || !costByOutcome i then cost.1 else cost.2

end Sys2Proof.Machine
end

