-- ==== Sys2Proof/Machine/Ops.lean ====
section
/-! DEFINITION. The named operations over memory, registers, the stack, PC and CYC (00_scope.md R14 to R18,
10_state.md, 20_memory.md), and taking an interrupt, the machine's one exception (60_exceptions.md R911 to R913). -/

namespace Sys2Proof.Machine

/-! ### Memory -/

/-- The canonical form: keys strictly rising and inside the 256 planes of 65536 addresses (R201). -/
def Memory.wf : Memory → Bool
  | [] => true
  | [(a, _)] => decide (a < 16777216)
  | (a, _) :: (b, v) :: m => decide (a < b) && Memory.wf ((b, v) :: m)

/-- The byte stored under a key, if anything was written there. -/
def Memory.stored : Memory → Nat → Option Byte
  | [], _ => none
  | (k, v) :: m, a => if k = a then some v else Memory.stored m a

/-- Stores a byte. -/
def Memory.store : Memory → Nat → Byte → Memory
  | [], a, v => [(a, v)]
  | (k, x) :: m, a, v =>
    if a < k then (a, v) :: (k, x) :: m
    else if a = k then (a, v) :: m
    else (k, x) :: Memory.store m a v

/-- Where the byte at an address of a plane is kept: plane × 65536 + address. -/
def cellKey (plane : Byte) (a : Word) : Nat := (plane ++ a).toNat

/-- What a byte reads as that nothing has written: a free value, the same at every read until a write (R208, R1004,
I2; notes/assumptions/1.md). -/
def unwritten (plane : Byte) (a : Word) : Byte := Config.initialByte plane a

/-- A range of the memory map holds an address while a bank is selected. -/
def regionHolds (r : MemRegion) (bank : Byte) (a : Word) : Bool :=
  decide (r.first ≤ a) && decide (a ≤ r.last) && (r.bank == none || r.bank == some bank)

/-- What the map puts at an address: the first range that holds it, else read-write storage of plane 0 (R208). -/
def memKindAt (map : List MemRegion) (bank : Byte) (a : Word) : MemKind :=
  match map.find? fun r => regionHolds r bank a with
  | some r => r.kind
  | none => .ram 0x00#8

/-- What stands at an address now. -/
def State.memKind (s : State) (a : Word) : MemKind := memKindAt s.par.map s.bank a

/-- The byte of a plane. -/
def State.planeByte (s : State) (plane : Byte) (a : Word) : Byte :=
  (Memory.stored s.mem (cellKey plane a)).getD (unwritten plane a)

/-- `getByte(a)`: pure, total, never faults (R201, R208). `MemRead(a, 1)` of R15. -/
def State.getByte (s : State) (a : Word) : Byte :=
  match s.memKind a with
  | .ram plane | .rom plane => s.planeByte plane a
  | .hole v => v
  | .select => s.bank
  | .external => Config.externalByte s.outside a

/-- The stored bytes after a write through the map. -/
def storeVia (kind : MemKind) (m : Memory) (a : Word) (v : Byte) : Memory :=
  match kind with
  | .ram plane => Memory.store m (cellKey plane a) v
  | _ => m

/-- The bank after a write through the map. -/
def bankVia (kind : MemKind) (bank v : Byte) : Byte :=
  match kind with
  | .select => v
  | _ => bank

/-- The outside record after a write through the map. -/
def outsideVia (kind : MemKind) (outside : List (Word × Byte)) (a : Word) (v : Byte) : List (Word × Byte) :=
  match kind with
  | .external => outside ++ [(a, v)]
  | _ => outside

/-- `setByte(a, v)`: total (R201, R208). `MemWrite(a, 1, v)` of R15. -/
def State.setByte (s : State) (a : Word) (v : Byte) : State :=
  { s with
    mem := storeVia (s.memKind a) s.mem a v
    bank := bankVia (s.memKind a) s.bank v
    outside := outsideVia (s.memKind a) s.outside a v }

/-- The stored bytes after the platform has put a byte at an address: read-write or read-only storage takes it
(R1004: bytes "given by the platform (for example a ROM image)"), elsewhere there is nothing to put it in. -/
def loadVia (kind : MemKind) (m : Memory) (a : Word) (v : Byte) : Memory :=
  match kind with
  | .ram plane | .rom plane => Memory.store m (cellKey plane a) v
  | _ => m

/-- The platform gives a byte of memory (R1004). No instruction does this. -/
def State.loadByte (s : State) (a : Word) (v : Byte) : State := { s with mem := loadVia (s.memKind a) s.mem a v }

/-- The address is storage, so that a write to it changes nothing that is read elsewhere: no bank latch and nothing that
the platform answers by its own means. -/
def State.isStorage (s : State) (a : Word) : Bool :=
  match s.memKind a with
  | .select | .external => false
  | _ => true

/-- The address is read-write storage, as every address is in the default instance of R208. -/
def State.isRam (s : State) (a : Word) : Bool :=
  match s.memKind a with
  | .ram _ => true
  | _ => false

/-- `MemRead(a, 2)`: low byte at `a`, high byte at `a + 1`, mod 65536 (R15, R203, R205). -/
def State.getWord (s : State) (a : Word) : Word := join (s.getByte (a + 1)) (s.getByte a)

/-- `MemWrite(a, 2, v)`: the low byte to `a`, then the high byte to `a + 1` (R15, R205). -/
def State.setWord (s : State) (a : Word) (v : Word) : State := (s.setByte a (loByte v)).setByte (a + 1) (hiByte v)

/-! ### Registers -/

/-- `r[i]` (R14, R303). -/
def State.reg (s : State) : Reg → Byte
  | .b => s.b
  | .c => s.c
  | .d => s.d
  | .e => s.e
  | .h => s.h
  | .l => s.l
  | .a => s.a

/-- `r[i] <- v` (R14, R303). -/
def State.setReg (s : State) (r : Reg) (v : Byte) : State :=
  match r with
  | .b => { s with b := v }
  | .c => { s with c := v }
  | .d => { s with d := v }
  | .e => { s with e := v }
  | .h => { s with h := v }
  | .l => { s with l := v }
  | .a => { s with a := v }

/-- `rp[i]`: B, D, H are the high halves (R101, R102, R304). -/
def State.pair (s : State) : Pair → Word
  | .bc => join s.b s.c
  | .de => join s.d s.e
  | .hl => join s.h s.l
  | .sp => s.sp

/-- `rp[i] <- v`: a write to a pair writes both halves (R102). -/
def State.setPair (s : State) (p : Pair) (v : Word) : State :=
  match p with
  | .bc => { s with b := hiByte v, c := loByte v }
  | .de => { s with d := hiByte v, e := loByte v }
  | .hl => { s with h := hiByte v, l := loByte v }
  | .sp => { s with sp := v }

/-- `HL` (R14). -/
def State.hl (s : State) : Word := s.pair .hl

/-! ### Stack (R16) -/

/-- `Push16(v)`: descending, the high byte first. -/
def State.push16 (s : State) (v : Word) : State :=
  let s1 := { s with sp := s.sp - 1 }
  let s2 := s1.setByte s1.sp (hiByte v)
  let s3 := { s2 with sp := s2.sp - 1 }
  s3.setByte s3.sp (loByte v)

/-- `Pop16()`: the word at SP and the state with SP moved past it. This is all that returning from an interrupt handler
restores: there is no return-from-interrupt instruction (R917). -/
def State.pop16 (s : State) : Word × State := (s.getWord s.sp, { s with sp := s.sp + 2 })

/-! ### PC and CYC -/

/-- `PC_next`: PC + the instruction's length, mod 65536 (R18, R105). -/
def State.pcNext (s : State) (i : Instr) : Word := s.pc + BitVec.ofNat 16 i.length

/-- Adds a base cost and the step's wait cycle: one when CYC is odd at action entry (R907, R908). -/
def State.charge (s : State) (cost : Nat) : State := { s with cyc := s.cyc + cost + s.cyc % 2 }

/-- Ends an action that has written PC: CYC is advanced by the instruction's base cost and the wait cycle (R18,
R907). -/
def State.finish (s : State) (i : Instr) (taken : Bool) : State := s.charge (baseCost s.par i taken)

/-- Ends an action that goes on to the next instruction: `PC <- PC_next; return cost` (R18, R105). -/
def State.next (s : State) (i : Instr) : State := ({ s with pc := s.pcNext i }).finish i true

/-! ### Taking an interrupt -/

/-- `RST_TARGET(v)`: the machine's own target for `v`, else `zext16(v[7:0] & 0x38)` (R912, D23). -/
def rstTarget (par : Params) (v : Word) : Word :=
  (par.rstTargets.lookup v).getD (join 0x00#8 (loByte v &&& 0x38#8))

/-- Restart-vector dispatch: PC forced, nothing pushed (R912). -/
def State.restartDispatch (s : State) : State := { s with pc := rstTarget s.par s.bus.intVec }

/-- Call-style dispatch: the return address pushed, PC set to the supplied address (R913). -/
def State.callDispatch (s : State) : State := { s.push16 s.pc with pc := s.bus.intVec }

/-- What acknowledging clears: IE and the request, and a halt, whose PC increment is consumed (R911). -/
def State.acknowledge (s : State) : State :=
  { s with
    ie := false
    bus := { s.bus with intReq := false }
    halted := false
    pc := if s.halted then s.pc + 1 else s.pc }

/-- `takeInterrupt()` and the cost it returns (R911 to R914). -/
def State.takeInterrupt (s : State) : State × Nat :=
  match s.par.intMode with
  | .restart => (s.acknowledge.restartDispatch, s.par.intRstCost)
  | .call => (s.acknowledge.callDispatch, s.par.intCallCost)

/-- Step (3) of R904: the interrupt taken and its cost charged, with the wait cycle. -/
def State.service (s : State) : State := s.takeInterrupt.1.charge s.takeInterrupt.2

/-- Step (3)'s test: a request pending, interrupts enabled, no disable delay (R904, R911). -/
def State.interruptTakeable (s : State) : Bool := s.bus.intReq && s.ie && !s.dly

end Sys2Proof.Machine
end

