-- ==== Sys2Proof/Machine/Scheduler.lean ====
section
/-! DEFINITION. The event scheduler (60_exceptions.md R930 to R938). What firing an event does is the devices' own
(Machine/Peripherals.lean); here it is an argument. `none` stands for a propagation that does not terminate (R945). -/

namespace Sys2Proof.Machine

/-- Runs an action for each element of a list, in order; `none` if one of them does not end. -/
def seqM {α : Type} (act : α → Bus → Option Bus) : List α → Bus → Option Bus
  | [], bus => some bus
  | x :: xs, bus =>
    match act x bus with
    | none => none
    | some bus' => seqM act xs bus'

/-- `addEvent(device, absoluteCycle, parameter)`: appends one event with the next sequence number; nothing is replaced
and a past-dated trigger is not refused (R931, R938). -/
def Bus.addEvent (bus : Bus) (dev : Nat) (trigger param : Int) : Bus :=
  { bus with
    events := bus.events ++ [⟨dev, trigger, param, bus.nextSeq⟩]
    nextSeq := bus.nextSeq + 1 }

/-- `removeAllEvents(device)`: cancels all of the device's pending events, at once (R932). -/
def Bus.removeAllEvents (bus : Bus) (dev : Nat) : Bus :=
  { bus with events := bus.events.filter fun e => e.dev ≠ dev }

/-- The smaller trigger of an optional one and another. -/
def earlier : Option Int → Int → Option Int
  | none, t => some t
  | some u, t => some (if t < u then t else u)

/-- `getRemainingTime(device)`: `none` without a pending event, else the distance from `now` to the smallest trigger
among the device's events, 0 or negative for an event already due (R934). -/
def Bus.remainingTime (bus : Bus) (dev : Nat) (now : Int) : Option Int :=
  ((bus.events.filter fun e => e.dev = dev).foldl (fun t e => earlier t e.trigger) none).map (· - now)

/-- `e` fires before `e'`: smaller trigger, or same trigger and added earlier (R933). -/
def Event.before (e e' : Event) : Bool :=
  decide (e.trigger < e'.trigger) || (decide (e.trigger = e'.trigger) && decide (e.seq < e'.seq))

/-- Puts an event into a list sorted by `Event.before`. -/
def insertEvent (e : Event) : List Event → List Event
  | [] => [e]
  | x :: xs => if x.before e then x :: insertEvent e xs else e :: x :: xs

/-- Sorts by (trigger, sequence number) (R933). -/
def sortEvents : List Event → List Event
  | [] => []
  | e :: es => insertEvent e (sortEvents es)

/-- The events due at `now`, in firing order: the drain's snapshot (R933). -/
def Bus.due (bus : Bus) (now : Int) : List Event :=
  sortEvents (bus.events.filter fun e => e.trigger ≤ now)

/-- One turn of the drain: an event still pending is removed and fired; one removed by an earlier callback of this
drain is passed over (R932, R933). -/
def fireIfPending (fire : Nat → Int → Bus → Option Bus) (e : Event) (bus : Bus) : Option Bus :=
  if bus.events.any fun x => x.seq = e.seq then
    fire e.dev e.param { bus with events := bus.events.filter fun x => x.seq ≠ e.seq }
  else some bus

/-- `runSchedule(now)` (R933), with what firing does as an argument. Events added during the drain are not in its
snapshot. -/
def drainWith (fire : Nat → Int → Bus → Option Bus) (now : Int) (bus : Bus) : Option Bus :=
  seqM (fireIfPending fire) (bus.due now) bus

end Sys2Proof.Machine
end

