-- ==== Sys2Proof/Machine/Interconnect.lean ====
section
/-! DEFINITION. Pins and signal nodes (60_exceptions.md R940 to R947). Whom a level change notifies is an argument of
`driveWith`; Machine/Peripherals.lean closes the recursion. -/

namespace Sys2Proof.Machine

/-- A device of the bus. -/
def Bus.device? (bus : Bus) (dev : Nat) : Option DeviceState := bus.devs[dev]?

/-- A pin's own driven level: `query()` (R943). A pin that does not exist reads the default 1 (R940). -/
def Bus.level (bus : Bus) (p : PinId) : Bool :=
  match bus.device? p.dev with
  | some d => d.levels[p.idx]?.getD true
  | none => true

/-- Stores a pin's driven level, notifying no one. -/
def Bus.setLevel (bus : Bus) (p : PinId) (v : Bool) : Bus :=
  { bus with devs := bus.devs.modify p.dev fun d => { d with levels := d.levels.set p.idx v } }

/-- Stores a device's internal fields. -/
def Bus.setFields (bus : Bus) (dev : Nat) (fields : DeviceFields) : Bus :=
  { bus with devs := bus.devs.modify dev fun d => { d with fields := fields } }

/-- Records a call made to a device (notes/assumptions/8.md). -/
def Bus.record (bus : Bus) (c : PlatformCall) : Bus :=
  { bus with calls := bus.calls ++ [c] }

/-- `requestInterrupt(v)`: latches the request and the vector; a second request replaces the vector (R910). -/
def Bus.requestInterrupt (bus : Bus) (v : Word) : Bus :=
  { bus with intReq := true, intVec := v }

/-- `withdrawInterrupt()` (R910). -/
def Bus.withdrawInterrupt (bus : Bus) : Bus :=
  { bus with intReq := false }

/-- The reset request: latches RSTREQ (R124). -/
def Bus.requestReset (bus : Bus) : Bus :=
  { bus with rstReq := true }

/-- The node a pin is attached to, if any (R940, R946). -/
def nodeOf (asm : Assembly) (p : PinId) : Option (List PinId) :=
  asm.nodes.find? fun ps => ps.contains p

/-- Wired-AND: a node is 1 exactly when all its pins drive 1; a node with no pins is 1 (R941). -/
def Bus.nodeLevel (bus : Bus) (pins : List PinId) : Bool := pins.all bus.level

/-- `queryNode()`: the level of the pin's node, 1 if the pin is unattached, whatever it drives (R943). -/
def Bus.queryNode (asm : Assembly) (bus : Bus) (p : PinId) : Bool :=
  match nodeOf asm p with
  | some ps => bus.nodeLevel ps
  | none => true

/-- "Reduces an arbitrary integer level expression to canonical 0/1" (R944). -/
def normalize (x : Int) : Bool := x ≠ 0

/-- The pins a change of `p` notifies: every other pin of its node, in wiring order (R942). -/
def othersOn (pins : List PinId) (p : PinId) : List PinId := pins.filter fun q => q ≠ p

/-- `drive(p, v)` (R942): nothing when the driven level stays; otherwise the level is stored, and when the node's
resolved level changed every other pin's owner is notified, in wiring order, each notification running to its end
before the next. -/
def driveWith (notify : PinId → Bus → Option Bus) (asm : Assembly) (p : PinId) (v : Bool) (bus : Bus) : Option Bus :=
  if v = bus.level p then some bus
  else
    let old := bus.queryNode asm p
    let bus' := bus.setLevel p v
    match nodeOf asm p with
    | none => some bus'
    | some ps => if bus'.nodeLevel ps = old then some bus' else seqM notify (othersOn ps p) bus'

end Sys2Proof.Machine
end

