-- ==== Sys2Proof/Machine/Peripherals.lean ====
section
/-! DEFINITION. The devices: the four time-driven peripherals (60_exceptions.md R961 to R964) and platform devices
(notes/assumptions/8.md): their notification handlers, callbacks and reset hooks, and the scheduler's drain over them.
`now` is CYC. `none` stands for a propagation that does not terminate (R945). -/

namespace Sys2Proof.Machine

/-- The kind of a device of the assembly. -/
def kindOf (asm : Assembly) (dev : Nat) : Option DeviceKind := (asm.devices[dev]?).map (·.kind)

/-- The internal fields of a device. -/
def Bus.fields? (bus : Bus) (dev : Nat) : Option DeviceFields := (bus.device? dev).map (·.fields)

/-- The inactive level of an auto-reset driver: `1 - AR_ACTIVE` (R964). -/
def inactive (active : Bool) : Bool := !active

/-- The level sampler's output: the latch while the clock is low, its inverse while the clock is high (R963). -/
def samplerOut (clock latch : Bool) : Bool := if clock then !latch else latch

/-! ### Platform devices' actions -/

/-- The level an action drives (R944 for integers). -/
def evalLevel (asm : Assembly) (dev : Nat) (bus : Bus) : LevelExpr → Bool
  | .int x => normalize x
  | .node pin => bus.queryNode asm ⟨dev, pin⟩
  | .notNode pin => !bus.queryNode asm ⟨dev, pin⟩
  | .outBit i =>
    match bus.fields? dev with
    | some (.platform _ out) => out.getLsbD i
    | _ => false

/-- A byte from its bits, bit 0 first; a bit that is not given is 1. -/
def byteOfBits (bits : List Bool) : Byte :=
  BitVec.ofNat 8 ((List.range 8).map fun i => (bits[i]?.getD true).toNat * 2 ^ i).sum

/-- The byte a platform device shows, as its pins and nodes are now (R129). -/
def evalByte (asm : Assembly) (dev : Nat) (bus : Bus) : ByteExpr → Byte
  | .const v => v
  | .bits levels => byteOfBits (levels.map (evalLevel asm dev bus))

/-- What a platform device shows at a port from now on: its own doing (R947). -/
def showAt (dev : Nat) (port : Byte) (byte : ByteExpr) (bus : Bus) : Bus :=
  match bus.fields? dev with
  | some (.platform shows out) => bus.setFields dev (.platform ((port, byte) :: shows.filter fun x => x.1 ≠ port) out)
  | _ => bus

/-- `activate()` of an auto-reset driver: drive the active level, cancel, arm the limit (R964). -/
def activateWith (notify : PinId → Bus → Option Bus) (asm : Assembly) (now : Int) (dev : Nat) (bus : Bus) : Option Bus :=
  match kindOf asm dev with
  | some (.autoReset limit active) =>
    match driveWith notify asm ⟨dev, 0⟩ active bus with
    | none => none
    | some bus' => some ((bus'.removeAllEvents dev).addEvent dev (now + limit) 0)
  | _ => some bus

/-- `deactivate()` of an auto-reset driver: cancel, drive the inactive level (R964). -/
def deactivateWith (notify : PinId → Bus → Option Bus) (asm : Assembly) (dev : Nat) (bus : Bus) : Option Bus :=
  match kindOf asm dev with
  | some (.autoReset _ active) => driveWith notify asm ⟨dev, 0⟩ (inactive active) (bus.removeAllEvents dev)
  | _ => some bus

/-- One action of a platform device. -/
def runAction (notify : PinId → Bus → Option Bus) (asm : Assembly) (now : Int) (dev : Nat) (act : Action) (bus : Bus) :
    Option Bus :=
  match act with
  | .drive pin level => driveWith notify asm ⟨dev, pin⟩ (evalLevel asm dev bus level) bus
  | .addEvent delay param => some (bus.addEvent dev (now + delay) param)
  | .addEventAt trigger param => some (bus.addEvent dev trigger param)
  | .removeAllEvents => some (bus.removeAllEvents dev)
  | .requestInterrupt v => some (bus.requestInterrupt v)
  | .withdrawInterrupt => some bus.withdrawInterrupt
  | .display port byte => some (showAt dev port byte bus)
  | .requestReset => some bus.requestReset
  | .activate k => activateWith notify asm now k bus
  | .deactivate k => deactivateWith notify asm k bus

/-- A platform device's actions, in order. -/
def runActions (notify : PinId → Bus → Option Bus) (asm : Assembly) (now : Int) (dev : Nat) (acts : List Action)
    (bus : Bus) : Option Bus :=
  seqM (runAction notify asm now dev) acts bus

/-- The actions listed for a key; none when it is not listed. -/
def actionsFor {κ : Type} [BEq κ] (table : List (κ × List Action)) (key : κ) : List Action :=
  (table.lookup key).getD []

/-! ### Notification -/

/-- The serial decoder's `notifyChange(in)` (R962): an edge opens a sample window if none is open; a notification at
the last sample's level with no window open (the reset sweep) is ignored; any other is absorbed. -/
def decoderNotified (asm : Assembly) (now : Int) (dev : Nat) (delay : Nat) (last : Bool) (bus : Bus) : Bus :=
  match bus.remainingTime dev now with
  | none => if bus.queryNode asm ⟨dev, 0⟩ = last then bus else bus.addEvent dev (now + delay) 0
  | some _ => bus

/-- The level sampler's `notifyChange(ck)` (R963). -/
def samplerNotified (notify : PinId → Bus → Option Bus) (asm : Assembly) (dev : Nat) (latch prev : Bool) (bus : Bus) :
    Option Bus :=
  let c := bus.queryNode asm ⟨dev, 1⟩
  let latch' := if prev && !c then bus.queryNode asm ⟨dev, 0⟩ else latch
  driveWith notify asm ⟨dev, 2⟩ (samplerOut c latch') (bus.setFields dev (.sampler latch' c))

/-- `q.owner.notifyChange(q)`: what the owner of a notified pin does (R961 to R964). -/
def handleNotify (notify : PinId → Bus → Option Bus) (asm : Assembly) (now : Int) (q : PinId) (bus : Bus) : Option Bus :=
  match kindOf asm q.dev, bus.fields? q.dev with
  | some (.decoder delay _), some (.decoder _ last _) =>
    if q.idx = 0 then some (decoderNotified asm now q.dev delay last bus) else some bus
  | some .sampler, some (.sampler latch prev) =>
    if q.idx = 1 then samplerNotified notify asm q.dev latch prev bus else some bus
  | some (.platform r), _ =>
    runActions notify asm now q.dev (actionsFor r.onNotify q.idx)
      (bus.record (.notified q.dev q.idx (bus.queryNode asm q)))
  | _, _ => some bus

/-- Notification to a bounded depth of nesting: a notification inside a notification goes one deeper. -/
def notifyUpTo (asm : Assembly) (now : Int) : Nat → PinId → Bus → Option Bus
  | 0, _, _ => none
  | depth + 1, q, bus => handleNotify (notifyUpTo asm now depth) asm now q bus

/-- How deep notifications can nest and still end. What a handler drives depends only on the pin notified, the driven
levels and the samplers' two bits; a nesting deeper than the number of those combinations repeats one, and then never
ends (R945; DEDUCED, notes/assumptions/7.md). -/
def notifyDepth (asm : Assembly) : Nat :=
  let pins := (asm.devices.map (·.pins)).sum
  pins * 2 ^ pins * 4 ^ asm.devices.length + 1

/-- `notifyChange`, depth-first (R942); `none` when the propagation does not terminate (R945). -/
def notifyChange (asm : Assembly) (now : Int) : PinId → Bus → Option Bus :=
  notifyUpTo asm now (notifyDepth asm)

/-- `drive(p, v)` with full propagation (R942). -/
def drive (asm : Assembly) (now : Int) (p : PinId) (v : Bool) (bus : Bus) : Option Bus :=
  driveWith (notifyChange asm now) asm p v bus

/-! ### Callbacks -/

/-- The frequency divider's `fire(t)`: toggle, drive, re-arm from its own trigger (R961). -/
def dividerFire (asm : Assembly) (now : Int) (dev n : Nat) (lvl : Bool) (t : Int) (bus : Bus) : Option Bus :=
  match drive asm now ⟨dev, 0⟩ (!lvl) (bus.setFields dev (.divider (!lvl))) with
  | none => none
  | some bus' => some ((bus'.removeAllEvents dev).addEvent dev (t + n) (t + n))

/-- The serial decoder's `fire(_)`: a sample (R962). -/
def decoderFire (asm : Assembly) (now : Int) (dev zmax : Nat) (phase last : Bool) (zrun : Nat) (bus : Bus) : Option Bus :=
  let s := bus.queryNode asm ⟨dev, 0⟩
  if s = last then
    if zrun + 1 ≥ zmax then some (bus.setFields dev (.decoder (!phase) last 0))
    else some (bus.setFields dev (.decoder phase last (zrun + 1)))
  else
    match drive asm now ⟨dev, 1⟩ (s ^^ phase) (bus.setFields dev (.decoder phase s 0)) with
    | none => none
    | some bus' => drive asm now ⟨dev, 2⟩ (!bus'.level ⟨dev, 2⟩) bus'

/-- `device.fire(parameter)` (R935, R961 to R964). The level sampler schedules no event. -/
def fire (asm : Assembly) (now : Int) (dev : Nat) (param : Int) (bus : Bus) : Option Bus :=
  match kindOf asm dev, bus.fields? dev with
  | some (.divider n), some (.divider lvl) => dividerFire asm now dev n lvl param bus
  | some (.decoder _ zmax), some (.decoder phase last zrun) => decoderFire asm now dev zmax phase last zrun bus
  | some (.autoReset _ active), _ => drive asm now ⟨dev, 0⟩ (inactive active) bus
  | some (.platform r), _ =>
    runActions (notifyChange asm now) asm now dev (actionsFor r.onFire param) (bus.record (.fired dev param))
  | _, _ => some bus

/-- `runSchedule(now)` (R933). -/
def runSchedule (asm : Assembly) (now : Int) (bus : Bus) : Option Bus :=
  drainWith (fire asm now) now bus

/-- `activate()` and `deactivate()` with full propagation (R964). -/
def activate (asm : Assembly) (now : Int) (dev : Nat) (bus : Bus) : Option Bus :=
  activateWith (notifyChange asm now) asm now dev bus

/-- See `activate`. -/
def deactivate (asm : Assembly) (now : Int) (dev : Nat) (bus : Bus) : Option Bus :=
  deactivateWith (notifyChange asm now) asm dev bus

/-! ### Reset hooks -/

/-- What a device's fields hold before its reset hook has run. A notification handler that the hook of an earlier device
calls reads these, and neither R1001 nor R130 gives them: DESIGN CHOICE, the values the hook itself sets, with an input
node's level taken as 1 (notes/assumptions/15.md). -/
def firstFields : DeviceKind → DeviceFields
  | .divider _ => .divider true
  | .decoder _ _ => .decoder false true 0
  | .sampler => .sampler false true
  | .autoReset _ _ => .autoReset
  | .platform r => .platform r.shows 0x00#8

/-- The assembled devices before any reset hook: every pin at its default 1 (R940, R1001 step 4). -/
def firstDevices (asm : Assembly) : List DeviceState :=
  asm.devices.map fun decl => ⟨List.replicate decl.pins true, firstFields decl.kind⟩

/-- A device's reset hook (R961 to R964, R1001 step 5). A platform device shows its first values again and then runs
its own reset actions. -/
def resetHook (asm : Assembly) (now : Int) (dev : Nat) (bus : Bus) : Option Bus :=
  match kindOf asm dev with
  | some (.divider n) =>
    match drive asm now ⟨dev, 0⟩ true (bus.setFields dev (.divider true)) with
    | none => none
    | some bus' => some ((bus'.removeAllEvents dev).addEvent dev (now + n) (now + n))
  | some (.decoder _ _) =>
    let last := bus.queryNode asm ⟨dev, 0⟩
    match drive asm now ⟨dev, 1⟩ true ((bus.setFields dev (.decoder false last 0)).removeAllEvents dev) with
    | none => none
    | some bus' => drive asm now ⟨dev, 2⟩ true bus'
  | some .sampler =>
    let prev := bus.queryNode asm ⟨dev, 1⟩
    drive asm now ⟨dev, 2⟩ (samplerOut prev false) (bus.setFields dev (.sampler false prev))
  | some (.autoReset _ active) =>
    drive asm now ⟨dev, 0⟩ (inactive active) ((bus.setFields dev .autoReset).removeAllEvents dev)
  | some (.platform r) =>
    runActions (notifyChange asm now) asm now dev r.onReset (bus.setFields dev (.platform r.shows 0x00#8))
  | none => some bus

end Sys2Proof.Machine
end

