-- ==== Sys2Proof/Machine/Ports.lean ====
section
/-! DEFINITION. The I/O space and port dispatch (20_memory.md R220 to R223). Devices run synchronously inside the IN or
OUT that calls them, with CYC as it was at the start of the step (R808). -/

namespace Sys2Proof.Machine

/-- The devices registered for a port, in registration order (R220 to R222). -/
def registered (table : List (Nat × Nat)) (port : Byte) : List Nat :=
  (table.filter fun r => r.1 = port.toNat).map (·.2)

/-- A device's contribution at a port: what a platform device shows there, read from the pins as they are now (R129,
R220); otherwise a free value (I5, notes/assumptions/9.md), each use of which is a new one. -/
def contribution (asm : Assembly) (dev : Nat) (port : Byte) (bus : Bus) : Byte × Bus :=
  let unknown := (Config.portInput dev port bus.frees, { bus with frees := bus.frees + 1 })
  match bus.fields? dev with
  | some (.platform shows _) =>
    match shows.lookup port with
    | some byte => (evalByte asm dev bus byte, bus)
    | none => unknown
  | _ => unknown

/-- `d.input(p)`: the contribution, and a platform device's reactions to being asked. -/
def deviceInput (asm : Assembly) (now : Int) (dev : Nat) (port : Byte) (bus : Bus) : Option (Byte × Bus) :=
  let (v, bus') := contribution asm dev port (bus.record (.input dev port))
  match kindOf asm dev with
  | some (.platform r) =>
    (runActions (notifyChange asm now) asm now dev (actionsFor r.onInput port) bus').map fun bus'' => (v, bus'')
  | _ => some (v, bus')

/-- Asks the sources in order and ANDs their contributions into `acc` (R220). -/
def andInputs (asm : Assembly) (now : Int) (port : Byte) : List Nat → Byte → Bus → Option (Byte × Bus)
  | [], acc, bus => some (acc, bus)
  | dev :: devs, acc, bus =>
    match deviceInput asm now dev port bus with
    | none => none
    | some (v, bus') => andInputs asm now port devs (acc &&& v) bus'

/-- `IoRead(p)`: the AND of every registered source's contribution, 0xFF without a source (R220). -/
def ioRead (asm : Assembly) (now : Int) (port : Byte) (bus : Bus) : Option (Byte × Bus) :=
  andInputs asm now port (registered asm.inputs port) 0xFF#8 bus

/-- `d.output(p, v)`: a platform device keeps the byte and reacts; the four peripherals of 60_exceptions.md section 8
have no port handler (notes/assumptions/10.md). -/
def deviceOutput (asm : Assembly) (now : Int) (port v : Byte) (dev : Nat) (bus : Bus) : Option Bus :=
  let bus := bus.record (.output dev port v)
  match kindOf asm dev, bus.fields? dev with
  | some (.platform r), some (.platform shows _) =>
    runActions (notifyChange asm now) asm now dev (actionsFor r.onOutput port) (bus.setFields dev (.platform shows v))
  | _, _ => some bus

/-- `IoWrite(p, v)`: every registered sink receives the byte, in registration order (R221). -/
def ioWrite (asm : Assembly) (now : Int) (port v : Byte) (bus : Bus) : Option Bus :=
  seqM (deviceOutput asm now port v) (registered asm.outputs port) bus

end Sys2Proof.Machine
end

