-- ==== Sys2Proof/Machine/Operands.lean ====
section
/-! DEFINITION. The operand forms of R307 and the shapes of action that families share: the accumulator operations, the
conditional transfers, the register and memory forms. -/

namespace Sys2Proof.Machine

/-- Operand M: the byte at address HL (R303, R307). -/
def State.operandM (s : State) : Byte := s.getByte s.hl

/-- `cond(ccc)`: the test a condition makes of the flags (R305, R700). -/
def State.cond (s : State) : Cond → Bool
  | .nz => !s.flag .z
  | .z => s.flag .z
  | .nc => !s.flag .cy
  | .c => s.flag .cy
  | .po => !s.flag .p
  | .pe => s.flag .p
  | .p => !s.flag .s
  | .m => s.flag .s

/-- An accumulator operation: A and the flags written from one result, then on (R501 to R512, R601 to R609). -/
def aluToA (i : Instr) (r : Alu) (s : State) : State := (({ s with a := r.val }).setFlags r.flags).next i

/-- A compare: the flags of a subtraction written, A kept (R610 to R612). -/
def aluCompare (i : Instr) (r : Alu) (s : State) : State := (s.setFlags r.flags).next i

/-- An increment or decrement of a register (R513, R515). -/
def aluToReg (i : Instr) (dst : Reg) (r : Alu) (s : State) : State := ((s.setReg dst r.val).setFlags r.flags).next i

/-- An increment or decrement of the byte at HL (R514, R516). -/
def aluToM (i : Instr) (r : Alu) (s : State) : State := ((s.setByte s.hl r.val).setFlags r.flags).next i

/-- A rotate: A and CY written (R613 to R616). -/
def rotateA (i : Instr) (r : Byte × Bool) (s : State) : State := (({ s with a := r.1 }).setFlags [(.cy, r.2)]).next i

/-- A jump: PC set to the target (R701). -/
def jumpTo (i : Instr) (target : Word) (s : State) : State := ({ s with pc := target }).finish i true

/-- A conditional jump, of one cost whatever the outcome (R700, R702 to R709). -/
def jumpIf (i : Instr) (cnd : Cond) (target : Word) (s : State) : State :=
  ({ s with pc := if s.cond cnd then target else s.pcNext i }).finish i true

/-- A call: PC_next pushed, PC set to the target (R710, R728). -/
def callTo (i : Instr) (target : Word) (s : State) : State :=
  ({ s.push16 (s.pcNext i) with pc := target }).finish i true

/-- A conditional call: as a call when the condition holds, else on, nothing pushed (R711 to R718). -/
def callIf (i : Instr) (cnd : Cond) (target : Word) (s : State) : State :=
  if s.cond cnd then callTo i target s else ({ s with pc := s.pcNext i }).finish i false

/-- A return: `PC <- Pop16()` (R719). -/
def returnFrom (i : Instr) (s : State) : State :=
  let (target, s') := s.pop16
  ({ s' with pc := target }).finish i true

/-- A conditional return: as a return when the condition holds, else on, no memory read (R720 to R727). -/
def returnIf (i : Instr) (cnd : Cond) (s : State) : State :=
  if s.cond cnd then returnFrom i s else ({ s with pc := s.pcNext i }).finish i false

/-- An undefined opcode under UNDEF_ALIAS_MODE = nop: `PC <- PC + 1; return 4` (R817). -/
def undefAsNop (s : State) : State := ({ s with pc := s.pc + 1 }).charge 4

/-- An undefined opcode: its alias, or a one-byte NOP, by UNDEF_ALIAS_MODE (R312, R817). -/
def undefOr (asAlias : State → State) (s : State) : State :=
  match s.par.undefMode with
  | .isaAlias => asAlias s
  | .nop => undefAsNop s

end Sys2Proof.Machine
end

