-- ==== Sys2Proof/Machine/Arithmetic.lean ====
section
/-! DEFINITION. The arithmetic instructions (41_arithmetic.md R501 to R520). Flags come from the operands as they are at the start. -/

namespace Sys2Proof.Machine

/-- `ADD r` (R501). -/
def execAddR (src : Reg) (s : State) : Result :=
  .next (aluToA (.addR src) (addAlu s.a (s.reg src) false) s)

/-- `ADD M` (R502). -/
def execAddM (s : State) : Result :=
  .next (aluToA .addM (addAlu s.a s.operandM false) s)

/-- `ADI n` (R503). -/
def execAdi (n : Byte) (s : State) : Result :=
  .next (aluToA (.adi n) (addAlu s.a n false) s)

/-- `ADC r` (R504). -/
def execAdcR (src : Reg) (s : State) : Result :=
  .next (aluToA (.adcR src) (addAlu s.a (s.reg src) (s.flag .cy)) s)

/-- `ADC M` (R505). -/
def execAdcM (s : State) : Result :=
  .next (aluToA .adcM (addAlu s.a s.operandM (s.flag .cy)) s)

/-- `ACI n` (R506). -/
def execAci (n : Byte) (s : State) : Result :=
  .next (aluToA (.aci n) (addAlu s.a n (s.flag .cy)) s)

/-- `SUB r` (R507). -/
def execSubR (src : Reg) (s : State) : Result :=
  .next (aluToA (.subR src) (subAlu s.a (s.reg src) false) s)

/-- `SUB M` (R508). -/
def execSubM (s : State) : Result :=
  .next (aluToA .subM (subAlu s.a s.operandM false) s)

/-- `SUI n` (R509). -/
def execSui (n : Byte) (s : State) : Result :=
  .next (aluToA (.sui n) (subAlu s.a n false) s)

/-- `SBB r` (R510). -/
def execSbbR (src : Reg) (s : State) : Result :=
  .next (aluToA (.sbbR src) (subAlu s.a (s.reg src) (s.flag .cy)) s)

/-- `SBB M` (R511). -/
def execSbbM (s : State) : Result :=
  .next (aluToA .sbbM (subAlu s.a s.operandM (s.flag .cy)) s)

/-- `SBI n` (R512). -/
def execSbi (n : Byte) (s : State) : Result :=
  .next (aluToA (.sbi n) (subAlu s.a n (s.flag .cy)) s)

/-- `INR r` (R513). -/
def execInrR (dst : Reg) (s : State) : Result :=
  .next (aluToReg (.inrR dst) dst (incAlu (s.reg dst)) s)

/-- `INR M` (R514). -/
def execInrM (s : State) : Result :=
  .next (aluToM .inrM (incAlu s.operandM) s)

/-- `DCR r` (R515). -/
def execDcrR (dst : Reg) (s : State) : Result :=
  .next (aluToReg (.dcrR dst) dst (decAlu (s.reg dst)) s)

/-- `DCR M` (R516). -/
def execDcrM (s : State) : Result :=
  .next (aluToM .dcrM (decAlu s.operandM) s)

/-- `INX rp`: no flag (R517). -/
def execInx (pr : Pair) (s : State) : Result :=
  .next ((s.setPair pr (s.pair pr + 1)).next (.inx pr))

/-- `DCX rp`: no flag (R518). -/
def execDcx (pr : Pair) (s : State) : Result :=
  .next ((s.setPair pr (s.pair pr - 1)).next (.dcx pr))

/-- `DAD rp`: CY only (R519). -/
def execDad (pr : Pair) (s : State) : Result :=
  .next (((s.setPair .hl (dadAlu s.hl (s.pair pr)).1).setFlags [(.cy, (dadAlu s.hl (s.pair pr)).2)]).next (.dad pr))

/-- `DAA` (R520). -/
def execDaa (s : State) : Result :=
  .next (aluToA .daa (daaAlu s.a (s.flag .ac) (s.flag .cy)) s)

end Sys2Proof.Machine
end

