-- ==== Sys2Proof/Machine/Branch.lean ====
section
/-! DEFINITION. The control transfer instructions (43_branch.md R701 to R729). None writes a flag. -/

namespace Sys2Proof.Machine

/-- `JMP nn` (R701). -/
def execJmp (nn : Word) (s : State) : Result :=
  .next (jumpTo (.jmp nn) nn s)

/-- `JNZ nn` (R702). -/
def execJnz (nn : Word) (s : State) : Result :=
  .next (jumpIf (.jnz nn) .nz nn s)

/-- `JZ nn` (R703). -/
def execJz (nn : Word) (s : State) : Result :=
  .next (jumpIf (.jz nn) .z nn s)

/-- `JNC nn` (R704). -/
def execJnc (nn : Word) (s : State) : Result :=
  .next (jumpIf (.jnc nn) .nc nn s)

/-- `JC nn` (R705). -/
def execJc (nn : Word) (s : State) : Result :=
  .next (jumpIf (.jc nn) .c nn s)

/-- `JPO nn` (R706). -/
def execJpo (nn : Word) (s : State) : Result :=
  .next (jumpIf (.jpo nn) .po nn s)

/-- `JPE nn` (R707). -/
def execJpe (nn : Word) (s : State) : Result :=
  .next (jumpIf (.jpe nn) .pe nn s)

/-- `JP nn` (R708). -/
def execJp (nn : Word) (s : State) : Result :=
  .next (jumpIf (.jp nn) .p nn s)

/-- `JM nn` (R709). -/
def execJm (nn : Word) (s : State) : Result :=
  .next (jumpIf (.jm nn) .m nn s)

/-- `CALL nn` (R710). -/
def execCall (nn : Word) (s : State) : Result :=
  .next (callTo (.call nn) nn s)

/-- `CNZ nn` (R711). -/
def execCnz (nn : Word) (s : State) : Result :=
  .next (callIf (.cnz nn) .nz nn s)

/-- `CZ nn` (R712). -/
def execCz (nn : Word) (s : State) : Result :=
  .next (callIf (.cz nn) .z nn s)

/-- `CNC nn` (R713). -/
def execCnc (nn : Word) (s : State) : Result :=
  .next (callIf (.cnc nn) .nc nn s)

/-- `CC nn` (R714). -/
def execCc (nn : Word) (s : State) : Result :=
  .next (callIf (.cc nn) .c nn s)

/-- `CPO nn` (R715). -/
def execCpo (nn : Word) (s : State) : Result :=
  .next (callIf (.cpo nn) .po nn s)

/-- `CPE nn` (R716). -/
def execCpe (nn : Word) (s : State) : Result :=
  .next (callIf (.cpe nn) .pe nn s)

/-- `CP nn` (R717). -/
def execCp (nn : Word) (s : State) : Result :=
  .next (callIf (.cp nn) .p nn s)

/-- `CM nn` (R718). -/
def execCm (nn : Word) (s : State) : Result :=
  .next (callIf (.cm nn) .m nn s)

/-- `RET` (R719). -/
def execRet (s : State) : Result :=
  .next (returnFrom .ret s)

/-- `RNZ` (R720). -/
def execRnz (s : State) : Result :=
  .next (returnIf .rnz .nz s)

/-- `RZ` (R721). -/
def execRz (s : State) : Result :=
  .next (returnIf .rz .z s)

/-- `RNC` (R722). -/
def execRnc (s : State) : Result :=
  .next (returnIf .rnc .nc s)

/-- `RC` (R723). -/
def execRc (s : State) : Result :=
  .next (returnIf .rc .c s)

/-- `RPO` (R724). -/
def execRpo (s : State) : Result :=
  .next (returnIf .rpo .po s)

/-- `RPE` (R725). -/
def execRpe (s : State) : Result :=
  .next (returnIf .rpe .pe s)

/-- `RP` (R726). -/
def execRp (s : State) : Result :=
  .next (returnIf .rp .p s)

/-- `RM` (R727). -/
def execRm (s : State) : Result :=
  .next (returnIf .rm .m s)

/-- `RST n`: the target is `nnn * 8` (R728). -/
def execRst (n : BitVec 3) (s : State) : Result :=
  .next (callTo (.rst n) (BitVec.ofNat 16 (n.toNat * 8)) s)

/-- `PCHL` (R729). -/
def execPchl (s : State) : Result :=
  .next (jumpTo .pchl s.hl s)

end Sys2Proof.Machine
end

