-- ==== Sys2Proof/Machine/DataTransfer.lean ====
section
/-! DEFINITION. The data transfer instructions (40_data_transfer.md R401 to R413). None writes a flag. -/

namespace Sys2Proof.Machine

/-- `MOV r1,r2` (R401). -/
def execMovRR (dst src : Reg) (s : State) : Result :=
  .next ((s.setReg dst (s.reg src)).next (.movRR dst src))

/-- `MOV r,M`: the address is HL as it was before (R402). -/
def execMovRM (dst : Reg) (s : State) : Result :=
  .next ((s.setReg dst s.operandM).next (.movRM dst))

/-- `MOV M,r` (R403). -/
def execMovMR (src : Reg) (s : State) : Result :=
  .next ((s.setByte s.hl (s.reg src)).next (.movMR src))

/-- `MVI r,n` (R404). -/
def execMviR (dst : Reg) (n : Byte) (s : State) : Result :=
  .next ((s.setReg dst n).next (.mviR dst n))

/-- `MVI M,n` (R405). -/
def execMviM (n : Byte) (s : State) : Result :=
  .next ((s.setByte s.hl n).next (.mviM n))

/-- `LXI rp,nn` (R406). -/
def execLxi (pr : Pair) (nn : Word) (s : State) : Result :=
  .next ((s.setPair pr nn).next (.lxi pr nn))

/-- `LDA nn` (R407). -/
def execLda (nn : Word) (s : State) : Result :=
  .next (({ s with a := s.getByte nn }).next (.lda nn))

/-- `STA nn` (R408). -/
def execSta (nn : Word) (s : State) : Result :=
  .next ((s.setByte nn s.a).next (.sta nn))

/-- `LHLD nn` (R409). -/
def execLhld (nn : Word) (s : State) : Result :=
  .next (({ s with l := s.getByte nn, h := s.getByte (nn + 1) }).next (.lhld nn))

/-- `SHLD nn`: L to `nn`, then H to `nn + 1` (R410). -/
def execShld (nn : Word) (s : State) : Result :=
  .next (((s.setByte nn s.l).setByte (nn + 1) s.h).next (.shld nn))

/-- `LDAX rp` (R411). -/
def execLdax (pr : Pair) (s : State) : Result :=
  .next (({ s with a := s.getByte (s.pair pr) }).next (.ldax pr))

/-- `STAX rp` (R412). -/
def execStax (pr : Pair) (s : State) : Result :=
  .next ((s.setByte (s.pair pr) s.a).next (.stax pr))

/-- `XCHG` (R413). -/
def execXchg (s : State) : Result :=
  .next (((s.setPair .hl (s.pair .de)).setPair .de (s.pair .hl)).next .xchg)

end Sys2Proof.Machine
end

