-- ==== Sys2Proof/Machine/Logical.lean ====
section
/-! DEFINITION. The logical, compare, rotate and flag instructions (42_logical.md R601 to R619). -/

namespace Sys2Proof.Machine

/-- `ANA r` (R601). -/
def execAnaR (src : Reg) (s : State) : Result :=
  .next (aluToA (.anaR src) (andAlu s.a (s.reg src)) s)

/-- `ANA M` (R602). -/
def execAnaM (s : State) : Result :=
  .next (aluToA .anaM (andAlu s.a s.operandM) s)

/-- `ANI n` (R603). -/
def execAni (n : Byte) (s : State) : Result :=
  .next (aluToA (.ani n) (andAlu s.a n) s)

/-- `XRA r` (R604). -/
def execXraR (src : Reg) (s : State) : Result :=
  .next (aluToA (.xraR src) (xorAlu s.a (s.reg src)) s)

/-- `XRA M` (R605). -/
def execXraM (s : State) : Result :=
  .next (aluToA .xraM (xorAlu s.a s.operandM) s)

/-- `XRI n` (R606). -/
def execXri (n : Byte) (s : State) : Result :=
  .next (aluToA (.xri n) (xorAlu s.a n) s)

/-- `ORA r` (R607). -/
def execOraR (src : Reg) (s : State) : Result :=
  .next (aluToA (.oraR src) (orAlu s.a (s.reg src)) s)

/-- `ORA M` (R608). -/
def execOraM (s : State) : Result :=
  .next (aluToA .oraM (orAlu s.a s.operandM) s)

/-- `ORI n` (R609). -/
def execOri (n : Byte) (s : State) : Result :=
  .next (aluToA (.ori n) (orAlu s.a n) s)

/-- `CMP r` (R610). -/
def execCmpR (src : Reg) (s : State) : Result :=
  .next (aluCompare (.cmpR src) (subAlu s.a (s.reg src) false) s)

/-- `CMP M` (R611). -/
def execCmpM (s : State) : Result :=
  .next (aluCompare .cmpM (subAlu s.a s.operandM false) s)

/-- `CPI n` (R612). -/
def execCpi (n : Byte) (s : State) : Result :=
  .next (aluCompare (.cpi n) (subAlu s.a n false) s)

/-- `RLC` (R613). -/
def execRlc (s : State) : Result :=
  .next (rotateA .rlc (rlcAlu s.a) s)

/-- `RRC` (R614). -/
def execRrc (s : State) : Result :=
  .next (rotateA .rrc (rrcAlu s.a) s)

/-- `RAL` (R615). -/
def execRal (s : State) : Result :=
  .next (rotateA .ral (ralAlu s.a (s.flag .cy)) s)

/-- `RAR` (R616). -/
def execRar (s : State) : Result :=
  .next (rotateA .rar (rarAlu s.a (s.flag .cy)) s)

/-- `CMA`: no flag (R617). -/
def execCma (s : State) : Result :=
  .next (({ s with a := ~~~s.a }).next .cma)

/-- `CMC` (R618). -/
def execCmc (s : State) : Result :=
  .next ((s.setFlags [(.cy, !s.flag .cy)]).next .cmc)

/-- `STC` (R619). -/
def execStc (s : State) : Result :=
  .next ((s.setFlags [(.cy, true)]).next .stc)

end Sys2Proof.Machine
end

