-- ==== Sys2Proof/Machine/StackIo.lean ====
section
/-! DEFINITION. Stack, I/O and machine-control instructions, and the officially undefined opcodes (44_stack_io_machine.md R800 to
R817). -/

namespace Sys2Proof.Machine

/-- `PUSH rp` (R800). -/
def execPushRp (pr : Pair) (s : State) : Result :=
  .next ((s.push16 (s.pair pr)).next (.pushRp pr))

/-- `PUSH PSW`: A and the flag byte as it is held (R801). -/
def execPushPsw (s : State) : Result :=
  .next ((s.push16 (join s.a s.f)).next .pushPsw)

/-- `POP rp` (R802). -/
def execPopRp (pr : Pair) (s : State) : Result :=
  let (v, s') := s.pop16
  .next ((s'.setPair pr v).next (.popRp pr))

/-- `POP PSW`: the fixed flag bits re-applied (R803). -/
def execPopPsw (s : State) : Result :=
  let (v, s') := s.pop16
  .next (({ s'.writeF (loByte v) with a := hiByte v }).next .popPsw)

/-- `XTHL`: both bytes read before either is written; the high byte is written first (R804). -/
def execXthl (s : State) : Result :=
  let lo := s.getByte s.sp
  let hi := s.getByte (s.sp + 1)
  let s' := (s.setByte (s.sp + 1) s.h).setByte s.sp s.l
  .next (({ s' with l := lo, h := hi }).next .xthl)

/-- `SPHL` (R805). -/
def execSphl (s : State) : Result :=
  .next (({ s with sp := s.hl }).next .sphl)

/-- `IN p`: devices run inside the instruction and see CYC as it is at its start (R806, R808). -/
def execInp (p : Byte) (s : State) : Result :=
  match ioRead s.asm s.cyc p s.bus with
  | none => .fault .notificationHang
  | some (v, bus) => .next (({ s with bus := bus, a := v }).next (.inp p))

/-- `OUT p`: devices run inside the instruction and see CYC as it is at its start (R807, R808). -/
def execOut (p : Byte) (s : State) : Result :=
  match ioWrite s.asm s.cyc p s.a s.bus with
  | none => .fault .notificationHang
  | some bus => .next (({ s with bus := bus }).next (.out p))

/-- `EI`: enables interrupts and sets the disable delay (R809). -/
def execEi (s : State) : Result :=
  .next (({ s with ie := true, dly := true }).next .ei)

/-- `DI` (R810). -/
def execDi (s : State) : Result :=
  .next (({ s with ie := false }).next .di)

/-- `NOP` (R811). -/
def execNop (s : State) : Result :=
  .next (s.next .nop)

/-- `HLT`: PC keeps the address of the HLT byte (R812). -/
def execHlt (s : State) : Result :=
  .next (({ s with halted := true }).finish .hlt true)

/-- `*NOP` (R813, R817). -/
def execUndefNop (x : BitVec 3) (s : State) : Result :=
  .next (undefOr (fun t => t.next (.undefNop x)) s)

/-- `*JMP nn` (R814, R817). -/
def execUndefJmp (nn : Word) (s : State) : Result :=
  .next (undefOr (jumpTo (.undefJmp nn) nn) s)

/-- `*RET` (R815, R817). -/
def execUndefRet (s : State) : Result :=
  .next (undefOr (returnFrom .undefRet) s)

/-- `*CALL nn` (R816, R817). -/
def execUndefCall (x : BitVec 2) (nn : Word) (s : State) : Result :=
  .next (undefOr (callTo (.undefCall x nn) nn) s)

end Sys2Proof.Machine
end

