-- ==== Sys2Proof/Machine/Dispatch.lean ====
section
/-! DEFINITION. The action of every instruction: one arm per constructor, one direct call of its meaning. -/

namespace Sys2Proof.Machine

/-- The action of an instruction, with the base cost it returns and the wait cycle added to CYC (R18, R907). -/
def exec (i : Instr) (s : State) : Host.Outcome State Fault Refusal :=
  match i with
  -- data transfer
  | .movRR dst src => Sys2Proof.Machine.execMovRR dst src s
  | .movRM dst => Sys2Proof.Machine.execMovRM dst s
  | .movMR src => Sys2Proof.Machine.execMovMR src s
  | .mviR dst n => Sys2Proof.Machine.execMviR dst n s
  | .mviM n => Sys2Proof.Machine.execMviM n s
  | .lxi pr nn => Sys2Proof.Machine.execLxi pr nn s
  | .lda nn => Sys2Proof.Machine.execLda nn s
  | .sta nn => Sys2Proof.Machine.execSta nn s
  | .lhld nn => Sys2Proof.Machine.execLhld nn s
  | .shld nn => Sys2Proof.Machine.execShld nn s
  | .ldax pr => Sys2Proof.Machine.execLdax pr s
  | .stax pr => Sys2Proof.Machine.execStax pr s
  | .xchg => Sys2Proof.Machine.execXchg s
  -- arithmetic
  | .addR src => Sys2Proof.Machine.execAddR src s
  | .addM => Sys2Proof.Machine.execAddM s
  | .adi n => Sys2Proof.Machine.execAdi n s
  | .adcR src => Sys2Proof.Machine.execAdcR src s
  | .adcM => Sys2Proof.Machine.execAdcM s
  | .aci n => Sys2Proof.Machine.execAci n s
  | .subR src => Sys2Proof.Machine.execSubR src s
  | .subM => Sys2Proof.Machine.execSubM s
  | .sui n => Sys2Proof.Machine.execSui n s
  | .sbbR src => Sys2Proof.Machine.execSbbR src s
  | .sbbM => Sys2Proof.Machine.execSbbM s
  | .sbi n => Sys2Proof.Machine.execSbi n s
  | .inrR dst => Sys2Proof.Machine.execInrR dst s
  | .inrM => Sys2Proof.Machine.execInrM s
  | .dcrR dst => Sys2Proof.Machine.execDcrR dst s
  | .dcrM => Sys2Proof.Machine.execDcrM s
  | .inx pr => Sys2Proof.Machine.execInx pr s
  | .dcx pr => Sys2Proof.Machine.execDcx pr s
  | .dad pr => Sys2Proof.Machine.execDad pr s
  | .daa => Sys2Proof.Machine.execDaa s
  -- logical
  | .anaR src => Sys2Proof.Machine.execAnaR src s
  | .anaM => Sys2Proof.Machine.execAnaM s
  | .ani n => Sys2Proof.Machine.execAni n s
  | .xraR src => Sys2Proof.Machine.execXraR src s
  | .xraM => Sys2Proof.Machine.execXraM s
  | .xri n => Sys2Proof.Machine.execXri n s
  | .oraR src => Sys2Proof.Machine.execOraR src s
  | .oraM => Sys2Proof.Machine.execOraM s
  | .ori n => Sys2Proof.Machine.execOri n s
  | .cmpR src => Sys2Proof.Machine.execCmpR src s
  | .cmpM => Sys2Proof.Machine.execCmpM s
  | .cpi n => Sys2Proof.Machine.execCpi n s
  | .rlc => Sys2Proof.Machine.execRlc s
  | .rrc => Sys2Proof.Machine.execRrc s
  | .ral => Sys2Proof.Machine.execRal s
  | .rar => Sys2Proof.Machine.execRar s
  | .cma => Sys2Proof.Machine.execCma s
  | .cmc => Sys2Proof.Machine.execCmc s
  | .stc => Sys2Proof.Machine.execStc s
  -- control transfer
  | .jmp nn => Sys2Proof.Machine.execJmp nn s
  | .jnz nn => Sys2Proof.Machine.execJnz nn s
  | .jz nn => Sys2Proof.Machine.execJz nn s
  | .jnc nn => Sys2Proof.Machine.execJnc nn s
  | .jc nn => Sys2Proof.Machine.execJc nn s
  | .jpo nn => Sys2Proof.Machine.execJpo nn s
  | .jpe nn => Sys2Proof.Machine.execJpe nn s
  | .jp nn => Sys2Proof.Machine.execJp nn s
  | .jm nn => Sys2Proof.Machine.execJm nn s
  | .call nn => Sys2Proof.Machine.execCall nn s
  | .cnz nn => Sys2Proof.Machine.execCnz nn s
  | .cz nn => Sys2Proof.Machine.execCz nn s
  | .cnc nn => Sys2Proof.Machine.execCnc nn s
  | .cc nn => Sys2Proof.Machine.execCc nn s
  | .cpo nn => Sys2Proof.Machine.execCpo nn s
  | .cpe nn => Sys2Proof.Machine.execCpe nn s
  | .cp nn => Sys2Proof.Machine.execCp nn s
  | .cm nn => Sys2Proof.Machine.execCm nn s
  | .ret => Sys2Proof.Machine.execRet s
  | .rnz => Sys2Proof.Machine.execRnz s
  | .rz => Sys2Proof.Machine.execRz s
  | .rnc => Sys2Proof.Machine.execRnc s
  | .rc => Sys2Proof.Machine.execRc s
  | .rpo => Sys2Proof.Machine.execRpo s
  | .rpe => Sys2Proof.Machine.execRpe s
  | .rp => Sys2Proof.Machine.execRp s
  | .rm => Sys2Proof.Machine.execRm s
  | .rst n => Sys2Proof.Machine.execRst n s
  | .pchl => Sys2Proof.Machine.execPchl s
  -- stack, I/O, machine control, undefined
  | .pushRp pr => Sys2Proof.Machine.execPushRp pr s
  | .pushPsw => Sys2Proof.Machine.execPushPsw s
  | .popRp pr => Sys2Proof.Machine.execPopRp pr s
  | .popPsw => Sys2Proof.Machine.execPopPsw s
  | .xthl => Sys2Proof.Machine.execXthl s
  | .sphl => Sys2Proof.Machine.execSphl s
  | .inp p => Sys2Proof.Machine.execInp p s
  | .out p => Sys2Proof.Machine.execOut p s
  | .ei => Sys2Proof.Machine.execEi s
  | .di => Sys2Proof.Machine.execDi s
  | .nop => Sys2Proof.Machine.execNop s
  | .hlt => Sys2Proof.Machine.execHlt s
  | .undefNop x => Sys2Proof.Machine.execUndefNop x s
  | .undefJmp nn => Sys2Proof.Machine.execUndefJmp nn s
  | .undefRet => Sys2Proof.Machine.execUndefRet s
  | .undefCall x nn => Sys2Proof.Machine.execUndefCall x nn s

end Sys2Proof.Machine
end

