-- ==== Sys2Proof/Machine/Fetch.lean ====
section
/-! DEFINITION. Fetching (00_scope.md R15, 20_memory.md R206, R233). -/

namespace Sys2Proof.Machine

/-- `Fetch8(k)`: the k-th byte of the instruction at PC, wrapping mod 65536 (R15, R105, R203). -/
def State.fetch8 (s : State) (k : Nat) : Byte := s.getByte (s.pc + BitVec.ofNat 16 k)

/-- The instruction at PC, its operands read through `getByte` at fetch, before any data access (R206, R233). A byte
the opcode does not take is read without effect, `getByte` being pure (R208). -/
def State.fetch (s : State) : Instr := decodeBytes (s.fetch8 0) (s.fetch8 1) (s.fetch8 2)

/-- A program byte put where the k-th byte of the next instruction is fetched, as the platform puts it (R1004). -/
def State.putFetch8 (s : State) (k : Nat) (v : Byte) : State := s.loadByte (s.pc + BitVec.ofNat 16 k) v

/-- Everything that would keep the next step from fetching is taken away: a latched reset, a request that would be
taken, a halt, an exclusion mask, and events that the step's drain would fire (R904). From State.reset nothing
changes. -/
def State.readyToFetch (s : State) : State :=
  { s with
    halted := false
    exclMask := 0x00#8
    bus :=
      { s.bus with
        events := s.bus.events.filter fun e => !decide (e.trigger ≤ (s.cyc : Int))
        rstReq := false
        intReq := s.bus.intReq && !s.interruptTakeable } }

end Sys2Proof.Machine
end

