-- ==== Sys2Proof/Machine/Engine.lean ====
section
/-! DEFINITION. The execution loop's pass (60_exceptions.md R902 to R908) and the reset sequence
(70_reset_and_hazards.md R1001). -/

namespace Sys2Proof.Machine

/-! ### Reset -/

/-- Steps (2), (3) and (4) for what devices share: latches and scheduler cleared, every pin driven 1 silently. With the
pins the devices' fields go to their first values, so that no handler called before its own device's hook reads the
state before the reset (R1002 "from any state", R1003; DESIGN CHOICE, notes/assumptions/15.md). The count of free port
values goes on (notes/assumptions/9.md). -/
def Bus.cleared (asm : Assembly) (bus : Bus) : Bus :=
  { bus with
    events := []
    nextSeq := 0
    devs := firstDevices asm
    intReq := false
    intVec := 0x0000#16
    rstReq := false
    calls := [] }

/-- Step (5): every device's reset hook, in assembly order. Where the hook of a later device drops a sampler's clock, the
sampler latches `d` as R963 says, and its output is then that latch: R1001 and R963 decide, and R1005's derived sentence
"the sampler's output follows its clock input's level" does not hold there (DEDUCED, notes/assumptions/28.md). -/
def resetHooks (asm : Assembly) (bus : Bus) : Option Bus :=
  seqM (resetHook asm 0) (List.range asm.devices.length) bus

/-- Step (6): every pin of every node is notified once, whether or not a level changed. -/
def resetSweep (asm : Assembly) (bus : Bus) : Option Bus :=
  seqM (notifyChange asm 0) asm.nodes.flatten bus

/-- `reset()` (R1001). Memory, wiring and parameters stay; `none` when a hook's or the sweep's propagation does not
end. F is written with its fixed bits (R108; notes/assumptions/13.md). INTREQ, INTVEC and RSTREQ are cleared in step (2),
before the hooks and the sweep: a request that a platform device makes in its own reset actions or in a notification of
step (5) or (6) outlives the reset, whatever R130's table says of them (DEDUCED, notes/assumptions/29.md). -/
def resetMachine (s : State) : Option State :=
  match resetHooks s.asm (s.bus.cleared s.asm) with
  | none => none
  | some bus =>
    match resetSweep s.asm bus with
    | none => none
    | some bus' =>
      some
        { s with
          a := 0x00#8
          b := 0x00#8
          c := 0x00#8
          d := 0x00#8
          e := 0x00#8
          h := 0x00#8
          l := 0x00#8
          f := fixF s.par 0x02#8
          sp := 0x0000#16
          pc := 0x0000#16
          ie := false
          dly := false
          halted := false
          cyc := 0
          bus := bus' }

/-! ### One pass of the loop -/

/-- How a step ends (R903). -/
inductive StepKind where
  | reset | serviced | tick | executed | excluded
deriving DecidableEq, Repr

/-- Step (1): the drain (R904, R933). -/
def State.drain (s : State) : Option State :=
  (runSchedule s.asm s.cyc s.bus).map fun bus => { s with bus := bus }

/-- What the step does after its drain, by the order of R904: reset, interrupt, halt, exclusion, instruction (R919). -/
def State.kind (s : State) (mask : Byte) : StepKind :=
  if s.bus.rstReq then .reset
  else if s.interruptTakeable then .serviced
  else if s.halted then .tick
  else if classOf s.par s.fetch &&& mask ≠ 0#8 then .excluded
  else .executed

/-- Steps (2) to (5) of R904, after the drain. -/
def State.act (s : State) (mask : Byte) : Result :=
  match s.kind mask with
  | .reset =>
    match resetMachine s with
    | none => .fault .notificationHang
    | some t => .next t
  | .serviced => .next s.service
  | .tick => .next (s.charge 1)
  | .excluded => .next s
  | .executed => exec s.fetch { s with dly := false }

/-- One step of R904 under an exclusion mask, with the way it ended (R903). -/
def pass (mask : Byte) (s : State) : Host.Outcome (StepKind × State) Fault Refusal :=
  match s.drain with
  | none => .fault .notificationHang
  | some t =>
    match t.act mask with
    | .next u => .next (t.kind mask, u)
    | .fault x => .fault x
    | .refused x => .refused x

end Sys2Proof.Machine
end

