-- ==== Sys2Proof/Machine/Step.lean ====
section
/-! DEFINITION. One step of the machine, and a word placed where it fetches next. -/

namespace Sys2Proof.Machine

/-- One pass of the loop of R904, under the exclusion mask of the `exec` call in progress. -/
def step (s : State) : Host.Outcome State Fault Refusal :=
  match pass s.exclMask s with
  | .next (_, t) => .next t
  | .fault x => .fault x
  | .refused x => .refused x

/-- `s` with an instruction's bytes at PC, PC + 1 and PC + 2 (bit 0 of `w` is bit 0 of the first byte; the bits from
`nbits` up are 0), and nothing left that would keep the next step from fetching it (notes/assumptions/2.md). -/
def State.withFetchWord (s : State) (nbits w : Nat) : State :=
  let v := w % 2 ^ nbits
  (((s.readyToFetch).putFetch8 0 (BitVec.ofNat 8 v)).putFetch8 1 (BitVec.ofNat 8 (v / 256))).putFetch8 2
    (BitVec.ofNat 8 (v / 65536))

end Sys2Proof.Machine
end

