-- ==== Sys2Proof/Machine/Assemble.lean ====
section
/-! DEFINITION. Assembling a machine: the configuration checks (60_exceptions.md R950 to R952, R10) and the power-on
state (70_reset_and_hazards.md R1002). -/

namespace Sys2Proof.Machine

/-- The pins a kind of device has (R961 to R964); a platform device any number. -/
def pinCount : DeviceKind → Option Nat
  | .divider _ => some 1
  | .decoder _ _ => some 3
  | .sampler => some 3
  | .autoReset _ _ => some 1
  | .platform _ => none

/-- The bounds R961, R962 and R964 put on a device's own parameters. -/
def kindParamsOk : DeviceKind → Bool
  | .divider n => decide (n ≥ 1)
  | .decoder delay zmax => decide (delay ≥ 1) && decide (zmax ≥ 1)
  | .autoReset limit _ => decide (limit ≥ 1)
  | .sampler | .platform _ => true

/-- The pins a level expression names exist (R952). -/
def levelOk (pins : Nat) : LevelExpr → Bool
  | .node q | .notNode q => decide (q < pins)
  | .int _ | .outBit _ => true

/-- The pins a shown byte names exist (R952). -/
def byteOk (pins : Nat) : ByteExpr → Bool
  | .const _ => true
  | .bits levels => levels.all (levelOk pins)

/-- The pins and devices an action names exist, and an activated device is an auto-reset driver (R952, R964). R964 lets
"the owning device's own logic" activate a driver; which device that is the assembly does not record, and any platform
device may name any driver (DESIGN CHOICE, notes/assumptions/27.md). Nor does R964 say whether it may do so during a
reset: the model allows `activate` among reset actions and notifications, and leaves such a driver active with its event
after the reset, where R1005's derived sentence has it inactive (DESIGN CHOICE, notes/assumptions/30.md). -/
def actionOk (asm : Assembly) (pins : Nat) : Action → Bool
  | .drive pin level => decide (pin < pins) && levelOk pins level
  | .display _ byte => byteOk pins byte
  | .activate k | .deactivate k =>
    match kindOf asm k with
    | some (.autoReset _ _) => true
    | _ => false
  | _ => true

/-- All of a platform device's actions and shown bytes are in range. -/
def reactionsOk (asm : Assembly) (pins : Nat) (r : Behaviour) : Bool :=
  r.onReset.all (actionOk asm pins) && r.onFire.all (fun x => x.2.all (actionOk asm pins))
    && r.onNotify.all (fun x => decide (x.1 < pins) && x.2.all (actionOk asm pins))
    && r.onInput.all (fun x => x.2.all (actionOk asm pins)) && r.onOutput.all (fun x => x.2.all (actionOk asm pins))
    && r.shows.all (fun x => byteOk pins x.2)

/-- A device has its kind's number of pins (R951) and parameters and indices in range (R952). -/
def deviceOk (asm : Assembly) (decl : DeviceDecl) : Bool :=
  (match pinCount decl.kind with
    | some n => decide (decl.pins = n)
    | none => true)
    && kindParamsOk decl.kind
    && (match decl.kind with
      | .platform r => reactionsOk asm decl.pins r
      | _ => true)

/-- A pin named by a node exists (R952). -/
def pinOk (asm : Assembly) (p : PinId) : Bool :=
  match asm.devices[p.dev]? with
  | some decl => decide (p.idx < decl.pins)
  | none => false

/-- A registration names a port in 0 to 255 and a device that exists (R222, R952). -/
def registrationOk (asm : Assembly) (r : Nat × Nat) : Bool :=
  decide (r.1 < 256) && decide (r.2 < asm.devices.length)

/-- An assembly without a configuration error: every device and index in order, no pin listed twice (R951, R952). R951
names a pin listed in two nodes; that a pin listed twice in ONE node is refused too is the model's choice (DESIGN
CHOICE, notes/assumptions/22.md). -/
def assemblyOk (asm : Assembly) : Bool :=
  asm.devices.all (deviceOk asm) && asm.nodes.all (fun ps => ps.all (pinOk asm)) && decide asm.nodes.flatten.Nodup
    && asm.inputs.all (registrationOk asm) && asm.outputs.all (registrationOk asm)

/-- Parameters under which every step that must advances CYC (R903): no base cost is 0. -/
def paramsOk (par : Params) : Bool :=
  decide (par.intRstCost ≥ 1) && decide (par.intCallCost ≥ 1)
    && par.costs.all (fun x => decide (x.2.1 ≥ 1) && decide (x.2.2 ≥ 1))

/-- Power-on: `reset()` of the assembled machine over the platform's memory (R1002, R1004). A configuration error is
refused: there is no initial state (R950, D43). -/
def powerOn (par : Params) (asm : Assembly) (mem : Memory) : Result :=
  if assemblyOk asm && paramsOk par && Memory.wf mem then
    match resetMachine { State.reset with
        par := par, asm := asm, mem := mem } with
    | none => .fault .notificationHang
    | some s => .next s
  else .refused .configurationError

end Sys2Proof.Machine
end

