-- ==== Sys2Proof/Machine/HostCalls.lean ====
section
/-! DEFINITION. What the host may do between steps (60_exceptions.md R901, R905, R909, R910, R921, R939, R970 to R972):
`exec`, `idle`, requests, platform pins and persistence. The host never runs during a step (R980). -/

namespace Sys2Proof.Machine

/-! ### exec (R901, R905) -/

/-- Why `exec` returns (R905). -/
inductive StopReason where
  | reset | excluded | budget | breakpoint
deriving DecidableEq, Repr

/-- Stop test (a), (b) or the end by reset or exclusion, after a step (R905). -/
def stopAfter (start minCycles : Nat) (breakpoints : List Word) (k : StepKind) (s : State) : Option StopReason :=
  match k with
  | .reset => some .reset
  | .excluded => some .excluded
  | _ =>
    if s.cyc - start ≥ minCycles then some .budget
    else if breakpoints.contains s.pc then some .breakpoint
    else none

/-- The loop of `exec`, for at most `fuel` steps. -/
def execLoop (minCycles : Nat) (mask : Byte) (breakpoints : List Word) (start : Nat) :
    Nat → State → Host.Outcome (StopReason × State) Fault Refusal
  | 0, _ => .refused .configurationError
  | fuel + 1, s =>
    match pass mask s with
    | .fault x => .fault x
    | .refused x => .refused x
    | .next (k, t) =>
      match stopAfter start minCycles breakpoints k t with
      | some r => .next (r, t)
      | none => execLoop minCycles mask breakpoints start fuel t

/-- `exec(minCycles, exclusionMask, breakpoints)` (R901, R905). At least one step runs. Every step that does not end
the call advances CYC by 1 or more (R903), so `minCycles + 1` steps always end it; under a cost of 0, which R903
excludes, the call is refused (notes/assumptions/17.md). -/
def runExec (minCycles : Nat) (mask : Byte) (breakpoints : List Word) (s : State) :
    Host.Outcome (StopReason × State) Fault Refusal :=
  execLoop minCycles mask breakpoints s.cyc (minCycles + 1) s

/-! ### idle (R921) -/

/-- `idle(minCycles)`: drains at every cycle from the start to the target, one cycle at a time; no wait cycles, no
instruction, no test of RSTREQ, INTREQ or HALTED (R921). -/
def idle : Nat → State → Option State
  | 0, s => s.drain
  | n + 1, s =>
    match s.drain with
    | none => none
    | some t => idle n { t with cyc := t.cyc + 1 }

/-! ### Requests and platform devices -/

/-- The host's calls of R970 that change the machine. -/
inductive HostCall where
  | exec (minCycles : Nat) (mask : Byte) (breakpoints : List Word)
  | idle (minCycles : Nat)
  | requestReset
  | requestInterrupt (v : Word)
  | withdrawInterrupt
  /-- A platform device drives a pin of its own (R940: only the owner drives it). -/
  | drivePin (p : PinId) (level : Int)
  /-- An auto-reset driver is activated or deactivated by the logic that owns it, here the platform's (R964; the assembly
  records no owner, DESIGN CHOICE, notes/assumptions/27.md). -/
  | activate (dev : Nat)
  | deactivate (dev : Nat)
  /-- The platform gives a byte of its memory (R1004). -/
  | poke (a : Word) (v : Byte)
deriving DecidableEq, Repr

/-- Replaces the bus by what a bus operation gives; a propagation that does not end is a hang. -/
def withBus (s : State) : Option Bus → Result
  | none => .fault .notificationHang
  | some bus => .next { s with bus := bus }

/-- Drives a pin if its owner is a platform device (R940). -/
def drivePlatform (p : PinId) (level : Int) (s : State) : Result :=
  match kindOf s.asm p.dev with
  | some (.platform _) => withBus s (drive s.asm s.cyc p (normalize level) s.bus)
  | _ => .next s

/-- One call of the host, between steps (R970, R980). None writes a device's internal fields, which only the device's own
handlers change (R947). Whoever calls may activate any auto-reset driver: which device owns it is not recorded (DESIGN
CHOICE, notes/assumptions/27.md). -/
def hostCall (call : HostCall) (s : State) : Result :=
  match call with
  | .exec n mask bps =>
    match runExec n mask bps s with
    | .next (_, t) => .next t
    | .fault x => .fault x
    | .refused x => .refused x
  | .idle n =>
    match idle n s with
    | none => .fault .notificationHang
    | some t => .next t
  | .requestReset => .next { s with bus := s.bus.requestReset }
  | .requestInterrupt v => .next { s with bus := s.bus.requestInterrupt v }
  | .withdrawInterrupt => .next { s with bus := s.bus.withdrawInterrupt }
  | .drivePin p level => drivePlatform p level s
  | .activate dev => withBus s (activate s.asm s.cyc dev s.bus)
  | .deactivate dev => withBus s (deactivate s.asm s.cyc dev s.bus)
  | .poke a v => .next (s.loadByte a v)

/-- The `exec` budget a host passes: timer period × clock frequency × speed-up (R971). The block does not read it. The
spec gives the factors no number type: natural numbers, and so no fraction and no rounding, are a DESIGN CHOICE
(notes/assumptions/26.md). -/
def hostBudget (tickPeriod clockHz speedup : Nat) : Nat := tickPeriod * clockHz * speedup

/-! ### Persistence (R939, R972) -/

/-- What is persisted of a device: its pins and fields, and its events as remaining cycles and parameter, never as
absolute cycles (R939; notes/assumptions/16.md). -/
structure DeviceSave where
  state : DeviceState
  pending : List (Int × Int)
deriving DecidableEq, Repr

/-- The persisted state (R972): no scheduler list, no INTREQ, INTVEC or RSTREQ. -/
structure Saved where
  a : Byte
  b : Byte
  c : Byte
  d : Byte
  e : Byte
  h : Byte
  l : Byte
  f : Byte
  sp : Word
  pc : Word
  ie : Bool
  dly : Bool
  halted : Bool
  cyc : Nat
  devs : List DeviceSave
deriving DecidableEq, Repr

/-- A device's pending events as (remaining cycles, parameter), in insertion order. -/
def pendingOf (bus : Bus) (now : Int) (dev : Nat) : List (Int × Int) :=
  (bus.events.filter fun e => e.dev = dev).map fun e => (e.trigger - now, e.param)

/-- Saves the machine (R972). -/
def save (s : State) : Saved where
  a := s.a
  b := s.b
  c := s.c
  d := s.d
  e := s.e
  h := s.h
  l := s.l
  f := s.f
  sp := s.sp
  pc := s.pc
  ie := s.ie
  dly := s.dly
  halted := s.halted
  cyc := s.cyc
  devs := s.bus.devs.zipIdx.map fun (st, dev) => ⟨st, pendingOf s.bus s.cyc dev⟩

/-- A device's post-restore hook: `addEvent(self, CYC + r, …)` for each remaining time `r`; the frequency divider's
parameter is its own trigger (R939, R961). -/
def rearm (asm : Assembly) (now : Int) (dev : Nat) : List (Int × Int) → Bus → Bus
  | [], bus => bus
  | (r, param) :: rest, bus =>
    let param' :=
      match kindOf asm dev with
      | some (.divider _) => now + r
      | _ => param
    rearm asm now dev rest (bus.addEvent dev (now + r) param')

/-- The post-restore hooks of all devices, in assembly order. -/
def rearmAll (asm : Assembly) (now : Int) : Nat → List DeviceSave → Bus → Bus
  | _, [], bus => bus
  | dev, d :: ds, bus => rearmAll asm now (dev + 1) ds (rearm asm now dev d.pending bus)

/-- Restores a saved machine into one of the same configuration, whose memory is the platform's own and stays. The
request latches are 0 until the host requests again (R972, D42). F passes the fixed-bit masks like every write of F
(R108), which R972 does not say of a restore (DESIGN CHOICE, notes/assumptions/16.md). The saved pin levels are put back
silently: no owner of another pin is notified, even of a node whose level changes by it, a point on which R939, R972 and
D42 are silent (DESIGN CHOICE, notes/assumptions/16.md). -/
def restore (v : Saved) (s : State) : State :=
  { s with
    a := v.a
    b := v.b
    c := v.c
    d := v.d
    e := v.e
    h := v.h
    l := v.l
    f := fixF s.par v.f
    sp := v.sp
    pc := v.pc
    ie := v.ie
    dly := v.dly
    halted := v.halted
    cyc := v.cyc
    bus := rearmAll s.asm v.cyc 0 v.devs
      { Bus.empty with devs := v.devs.map (·.state), frees := s.bus.frees } }

end Sys2Proof.Machine
end

