-- ==== Sys2Proof/Safety.lean ====
section
/-! DEFINITION. What a good state is, and the words the statements about the machine are written in: what an instruction
leaves as it was, and what it leaves in the flags, PC and CYC. -/

namespace Sys2Proof.Machine

/-! ### Good states -/

/-- F has its fixed bits (R108). -/
def FixedBits (s : State) : Prop := fixF s.par s.f = s.f

/-- Pending events stand in insertion order, each sequence number used once and already given out (R930, R931). -/
def EventsOrdered (bus : Bus) : Prop :=
  (bus.events.map (·.seq)).Pairwise (· < ·) ∧ ∀ e ∈ bus.events, e.seq < bus.nextSeq

/-- Every device of the assembly is on the bus with its pins (R940). -/
def PinsFit (asm : Assembly) (bus : Bus) : Prop :=
  bus.devs.map (fun d => d.levels.length) = asm.devices.map (·.pins)

/-- The invariant of the machine: canonical memory, fixed flag bits, ordered events, every device with its pins. -/
def State.Inv (s : State) : Prop :=
  Memory.wf s.mem = true ∧ FixedBits s ∧ EventsOrdered s.bus ∧ PinsFit s.asm s.bus

/-- The CPU is finished: halted with interrupts disabled (R922). -/
def State.Finished (s : State) : Prop := s.halted = true ∧ s.ie = false

/-! ### What stays -/

/-- Every 8-bit register but those listed. -/
def KeepsRegsBut (s t : State) (rs : List Reg) : Prop := ∀ r, r ∉ rs → t.reg r = s.reg r

/-- Every byte of memory but those listed, read as the machine reads a byte. -/
def KeepsBytesBut (s t : State) (xs : List Word) : Prop := ∀ x, x ∉ xs → t.getByte x = s.getByte x

/-- MEM's own state (stored bytes, bank, outside record) as another state has it. -/
def MemoryIs (u t : State) : Prop := t.mem = u.mem ∧ t.bank = u.bank ∧ t.outside = u.outside

/-- An instruction that writes no memory: MEM's state stays, and every address reads as it did. -/
def KeepsMemory (s t : State) : Prop := MemoryIs s t ∧ KeepsBytesBut s t []

/-- The state after the writes listed, in order, each through the memory map (R206, R208). -/
def afterWrites (s : State) (ws : List (Word × Byte)) : State := ws.foldl (fun u w => u.setByte w.1 w.2) s

/-- An instruction that writes the bytes listed, in order: MEM is as these calls of `setByte` leave it (R206, R208), and
where they go to read-write storage, which all memory is by default (R208), every byte outside them reads as before and
each address written reads the byte written. -/
def Stores (s t : State) (ws : List (Word × Byte)) : Prop :=
  MemoryIs (afterWrites s ws) t ∧
    ((∀ w ∈ ws, s.isRam w.1 = true) → KeepsBytesBut s t (ws.map (·.1)) ∧ ∀ w ∈ ws, t.getByte w.1 = w.2)

/-- The state a number of passes lead to, none of them ending in a reset or an exclusion (R905). -/
def PassesLeadTo (mask : Byte) : Nat → State → State → Prop
  | 0, s, t => t = s
  | n + 1, s, t => ∃ k u, pass mask s = .next (k, u) ∧ k ≠ .reset ∧ k ≠ .excluded ∧ PassesLeadTo mask n u t

/-- Every bit of F but those of the flags listed. -/
def KeepsFlagsBut (s t : State) (ks : List Flag) : Prop :=
  ∀ i, i < 8 → (∀ k ∈ ks, i ≠ k.bit) → t.f.getLsbD i = s.f.getLsbD i

/-- The engine flags, everything the devices share, and the configuration. -/
def KeepsEngine (s t : State) : Prop :=
  t.ie = s.ie ∧ t.dly = s.dly ∧ t.halted = s.halted ∧ t.bus = s.bus ∧ t.par = s.par ∧ t.asm = s.asm ∧ t.exclMask = s.exclMask

/-! ### What happens to PC, CYC and flags -/

/-- CYC is advanced by the instruction's base cost and the wait cycle (R907, R908). -/
def Pays (s t : State) (i : Instr) (taken : Bool) : Prop :=
  t.cyc = s.cyc + baseCost s.par i taken + s.cyc % 2

/-- The opcode table's row of an instruction: its bytes as they stand in memory, its class mask, its default base cost
when it is taken and when not (R302, R321, R1021). -/
def Row (i : Instr) (bytes : List Byte) (cls : Byte) (cost : Nat × Nat) : Prop :=
  encode i = bytes ∧ i.length = bytes.length ∧ tableClass i = cls ∧ defaultCost i = cost

/-- PC goes past an instruction of `len` bytes, mod 65536, and the instruction is paid for (R18, R105). -/
def Advances (s t : State) (i : Instr) (len : Nat) : Prop := t.pc = s.pc + BitVec.ofNat 16 len ∧ Pays s t i true

/-- A flag holds `v` as the fixed-bit masks let it (under the default masks, `v` itself) (R108). -/
def FlagIs (s t : State) (k : Flag) (v : Bool) : Prop :=
  t.flag k = ((v && s.par.flagAnd.getLsbD k.bit) || s.par.flagOr.getLsbD k.bit)

/-- S, Z and P tell of a result: its top bit, whether it is 0, whether it has an even number of 1 bits (R110, R111). -/
def SzpTell (s t : State) (x : Byte) : Prop :=
  FlagIs s t .s (decide (128 ≤ x.toNat)) ∧ FlagIs s t .z (decide (x.toNat = 0)) ∧
    FlagIs s t .p (decide ((List.range 8).countP (fun i => x.getLsbD i) % 2 = 0))

/-! ### Shapes of result -/

/-- An instruction that writes one register and no flag. -/
def LoadsReg (s t : State) (i : Instr) (len : Nat) (dst : Reg) (v : Byte) : Prop :=
  t.reg dst = v ∧ KeepsRegsBut s t [dst] ∧ t.sp = s.sp ∧ t.f = s.f ∧ KeepsMemory s t ∧ KeepsEngine s t ∧
    Advances s t i len

/-- An instruction that stores one byte. -/
def StoresByte (s t : State) (i : Instr) (len : Nat) (addr : Word) (v : Byte) : Prop :=
  Stores s t [(addr, v)] ∧ KeepsRegsBut s t [] ∧ t.sp = s.sp ∧ t.f = s.f ∧ KeepsEngine s t ∧
    Advances s t i len

/-- An instruction that writes one register pair (R102) and no flag. -/
def LoadsPair (s t : State) (i : Instr) (len : Nat) (pr : Pair) (v : Word) : Prop :=
  t.pair pr = v ∧ (∀ q, q ≠ pr → t.pair q = s.pair q) ∧ t.a = s.a ∧ t.f = s.f ∧ KeepsMemory s t ∧ KeepsEngine s t ∧
    Advances s t i len

/-- An instruction that writes A and the five flags, the fixed bits of F kept. -/
def AccumulatorFrame (s t : State) (i : Instr) (len : Nat) : Prop :=
  KeepsRegsBut s t [.a] ∧ t.sp = s.sp ∧ KeepsFlagsBut s t [.s, .z, .ac, .p, .cy] ∧ KeepsMemory s t ∧ KeepsEngine s t ∧
    Advances s t i len

/-- `A <- A + v + cin` with the addition flags (R112, R501, R504). -/
def AddsToA (s t : State) (i : Instr) (len : Nat) (v : Byte) (cin : Bool) : Prop :=
  t.a.toNat = (s.a.toNat + v.toNat + cin.toNat) % 256 ∧
    FlagIs s t .cy (decide (256 ≤ s.a.toNat + v.toNat + cin.toNat)) ∧
    FlagIs s t .ac (decide (16 ≤ s.a.toNat % 16 + v.toNat % 16 + cin.toNat)) ∧ SzpTell s t t.a ∧ AccumulatorFrame s t i len

/-- The flags of `A - v - bin`: CY on borrow, AC when the low nibble needs no borrow (R113). -/
def SubtractionFlags (s t : State) (v : Byte) (bin : Bool) : Prop :=
  FlagIs s t .cy (decide (s.a.toNat < v.toNat + bin.toNat)) ∧
    FlagIs s t .ac (decide (v.toNat % 16 + bin.toNat ≤ s.a.toNat % 16)) ∧
    SzpTell s t (s.a - v - BitVec.ofNat 8 bin.toNat)

/-- `A <- A - v - bin` with the subtraction flags (R113, R507, R510). -/
def SubtractsFromA (s t : State) (i : Instr) (len : Nat) (v : Byte) (bin : Bool) : Prop :=
  t.a = s.a - v - BitVec.ofNat 8 bin.toNat ∧ SubtractionFlags s t v bin ∧ AccumulatorFrame s t i len

/-- A compare: the flags of `A - v`, nothing else (R610). -/
def ComparesA (s t : State) (i : Instr) (len : Nat) (v : Byte) : Prop :=
  t.a = s.a ∧ SubtractionFlags s t v false ∧ FlagIs s t .z (decide (s.a = v)) ∧ AccumulatorFrame s t i len

/-- A logical operation: A, S, Z, P from the result, CY = 0, AC as given (R601, R604, R607). -/
def LogicalToA (s t : State) (i : Instr) (len : Nat) (res : Nat → Bool) (ac : Bool) : Prop :=
  (∀ k, k < 8 → t.a.getLsbD k = res k) ∧ FlagIs s t .cy false ∧ FlagIs s t .ac ac ∧ SzpTell s t t.a ∧
    AccumulatorFrame s t i len

/-- A rotate: A bit by bit, CY, and no other flag (R613 to R616). -/
def RotatesA (s t : State) (i : Instr) (res : Nat → Bool) (cy : Bool) : Prop :=
  (∀ k, k < 8 → t.a.getLsbD k = res k) ∧ FlagIs s t .cy cy ∧ KeepsFlagsBut s t [.cy] ∧ KeepsRegsBut s t [.a] ∧ t.sp = s.sp ∧
    KeepsMemory s t ∧ KeepsEngine s t ∧ Advances s t i 1

/-- The flags of an increment or decrement, which leave CY (R513, R515). -/
def CountFlags (s t : State) (w : Byte) (ac : Bool) : Prop :=
  FlagIs s t .ac ac ∧ SzpTell s t w ∧ KeepsFlagsBut s t [.s, .z, .ac, .p]

/-- A transfer of control that writes PC alone. -/
def GoesTo (s t : State) (i : Instr) (taken : Bool) (target : Word) : Prop :=
  t.pc = target ∧ KeepsRegsBut s t [] ∧ t.sp = s.sp ∧ t.f = s.f ∧ KeepsMemory s t ∧ KeepsEngine s t ∧ Pays s t i taken

/-- A call: the return address pushed, high byte at SP - 1 and low byte at SP - 2, and PC at the target (R16, R710). -/
def CallsTo (s t : State) (i : Instr) (target back : Word) : Prop :=
  t.pc = target ∧ t.sp = s.sp - 2 ∧ Stores s t [(s.sp - 1, hiByte back), (s.sp - 2, loByte back)] ∧ KeepsRegsBut s t [] ∧ t.f = s.f ∧ KeepsEngine s t ∧ Pays s t i true

/-- A return: PC from the word at SP, SP moved past it (R16, R719). -/
def ReturnsBack (s t : State) (i : Instr) : Prop :=
  t.pc = join (s.getByte (s.sp + 1)) (s.getByte s.sp) ∧ t.sp = s.sp + 2 ∧ KeepsMemory s t ∧ KeepsRegsBut s t [] ∧
    t.f = s.f ∧ KeepsEngine s t ∧ Pays s t i true

/-- A push of a word (R16, R800): high byte at SP - 1, low byte at SP - 2. -/
def PushesWord (s t : State) (i : Instr) (v : Word) : Prop :=
  t.sp = s.sp - 2 ∧ Stores s t [(s.sp - 1, hiByte v), (s.sp - 2, loByte v)] ∧ KeepsRegsBut s t [] ∧ t.f = s.f ∧ KeepsEngine s t ∧ Advances s t i 1

end Sys2Proof.Machine
end

