-- ==== Sys2Proof/Certificates/Slice0/Obligations.lean ====
section
/-! DEFINITION. The statements for the provers. Words such as `LoadsReg` or `FlagIs` are defined in Sys2Proof/Safety.lean.
Every statement is about every state, and so about every configuration and every parameter the state carries. -/

open Sys2Proof Sys2Proof.Machine

/-! ### Memory (R201 to R208) -/

/-- MEM, a parameter of the machine (R208): with the empty map, the default instance, every address reads as the last byte
written to it. What the other kinds of address do is the model's (DESIGN CHOICE, notes/assumptions/1.md): a write to
read-write storage of a plane changes that one byte of that plane; read-only storage and holes take no write; a write to
the bank latch selects the bank and changes no stored byte; a write to an address outside is recorded and changes
nothing else. Of a list of writes to different addresses of storage every other byte reads as before, and each address
written reads the byte written on read-write storage and as before on read-only storage and in a hole. -/
def Obligations.MemoryFollowsTheMap : Prop :=
  (∀ (s : State) (a : Word) (v : Byte),
    (s.par.map = [] → ∀ x, (s.setByte a v).getByte x = if x = a then v else s.getByte x) ∧
    (∀ p, s.memKind a = .ram p →
      (s.setByte a v).getByte a = v ∧ (∀ x, x ≠ a → (s.setByte a v).getByte x = s.getByte x) ∧
        ∀ (q : Byte) (x : Word), (q ≠ p ∨ x ≠ a) → (s.setByte a v).planeByte q x = s.planeByte q x) ∧
    (∀ p, s.memKind a = .rom p → s.getByte a = s.planeByte p a ∧ s.setByte a v = s) ∧
    (∀ w, s.memKind a = .hole w → s.getByte a = w ∧ s.setByte a v = s) ∧
    (s.memKind a = .select →
      s.getByte a = s.bank ∧ (s.setByte a v).bank = v ∧ (s.setByte a v).outside = s.outside ∧
        (∀ q x, (s.setByte a v).planeByte q x = s.planeByte q x) ∧
        ∀ x, (s.setByte a v).memKind x = memKindAt s.par.map v x) ∧
    (s.memKind a = .external →
      (s.setByte a v).outside = s.outside ++ [(a, v)] ∧ (s.setByte a v).bank = s.bank ∧
        (∀ q x, (s.setByte a v).planeByte q x = s.planeByte q x) ∧
        ∀ x, s.memKind x ≠ .external → (s.setByte a v).getByte x = s.getByte x)) ∧
  (∀ (s : State) (ws : List (Word × Byte)), (ws.map (·.1)).Nodup → (∀ w ∈ ws, s.isStorage w.1 = true) →
    KeepsBytesBut s (afterWrites s ws) (ws.map (·.1)) ∧
      ∀ w ∈ ws, (afterWrites s ws).getByte w.1 = if s.isRam w.1 then w.2 else s.getByte w.1)

/-! ### Data transfer (R401 to R413) -/

/-- `MOV r,r`, `MOV r,M`, `MVI r,n`, `LDA`, `LDAX`: the register gets the source, the memory operand at HL as it was, the
immediate; A gets the byte at the direct address, at BC or at DE. -/
def Obligations.RegisterLoadResult : Prop :=
  ∀ (s : State) (dst src : Reg) (n : Byte) (nn : Word),
    (∃ t, exec (.movRR dst src) s = .next t ∧ LoadsReg s t (.movRR dst src) 1 dst (s.reg src)) ∧
    (∃ t, exec (.movRM dst) s = .next t ∧ LoadsReg s t (.movRM dst) 1 dst (s.getByte (join s.h s.l))) ∧
    (∃ t, exec (.mviR dst n) s = .next t ∧ LoadsReg s t (.mviR dst n) 2 dst n) ∧
    (∃ t, exec (.lda nn) s = .next t ∧ LoadsReg s t (.lda nn) 3 .a (s.getByte nn)) ∧
    (∃ t, exec (.ldax .bc) s = .next t ∧ LoadsReg s t (.ldax .bc) 1 .a (s.getByte (join s.b s.c))) ∧
    (∃ t, exec (.ldax .de) s = .next t ∧ LoadsReg s t (.ldax .de) 1 .a (s.getByte (join s.d s.e))) ∧
    Row (.movRR dst src) [0b01#2 ++ dst.code ++ src.code] 0x00#8 (5, 5) ∧
    Row (.movRM dst) [0b01#2 ++ dst.code ++ 0b110#3] 0x01#8 (7, 7) ∧
    Row (.mviR dst n) [0b00#2 ++ dst.code ++ 0b110#3, n] 0x00#8 (7, 7) ∧
    Row (.lda nn) [0b00111010#8, loByte nn, hiByte nn] 0x01#8 (13, 13) ∧
    Row (.ldax .bc) [0b00001010#8] 0x01#8 (7, 7) ∧
    Row (.ldax .de) [0b00011010#8] 0x01#8 (7, 7)

/-- `MOV M,r`, `MVI M,n`, `STA`, `STAX`: one byte stored, at HL, at HL, at the direct address, at BC or DE. -/
def Obligations.StoreByteResult : Prop :=
  ∀ (s : State) (src : Reg) (n : Byte) (nn : Word),
    (∃ t, exec (.movMR src) s = .next t ∧ StoresByte s t (.movMR src) 1 (join s.h s.l) (s.reg src)) ∧
    (∃ t, exec (.mviM n) s = .next t ∧ StoresByte s t (.mviM n) 2 (join s.h s.l) n) ∧
    (∃ t, exec (.sta nn) s = .next t ∧ StoresByte s t (.sta nn) 3 nn s.a) ∧
    (∃ t, exec (.stax .bc) s = .next t ∧ StoresByte s t (.stax .bc) 1 (join s.b s.c) s.a) ∧
    (∃ t, exec (.stax .de) s = .next t ∧ StoresByte s t (.stax .de) 1 (join s.d s.e) s.a) ∧
    Row (.movMR src) [0b01110#5 ++ src.code] 0x02#8 (7, 7) ∧
    Row (.mviM n) [0b00110110#8, n] 0x02#8 (10, 10) ∧
    Row (.sta nn) [0b00110010#8, loByte nn, hiByte nn] 0x02#8 (13, 13) ∧
    Row (.stax .bc) [0b00000010#8] 0x02#8 (7, 7) ∧
    Row (.stax .de) [0b00010010#8] 0x02#8 (7, 7)

/-- `LXI`: the pair gets the word; for BC, DE and HL the high half is the high byte. -/
def Obligations.PairImmediateResult : Prop :=
  ∀ (s : State) (pr : Pair) (nn : Word),
    (∃ t, exec (.lxi pr nn) s = .next t ∧ LoadsPair s t (.lxi pr nn) 3 pr nn ∧
      (pr = .bc → t.b = hiByte nn ∧ t.c = loByte nn) ∧ (pr = .de → t.d = hiByte nn ∧ t.e = loByte nn) ∧
      (pr = .hl → t.h = hiByte nn ∧ t.l = loByte nn) ∧ (pr = .sp → t.sp = nn)) ∧
    Row (.lxi pr nn) [0b00#2 ++ pr.code ++ 0b0001#4, loByte nn, hiByte nn] 0x00#8 (10, 10)

/-- `LHLD` and `SHLD`: L from or to the address, H from or to the address after it, mod 65536. -/
def Obligations.DirectPairResult : Prop :=
  ∀ (s : State) (nn : Word),
    (∃ t, exec (.lhld nn) s = .next t ∧ t.l = s.getByte nn ∧ t.h = s.getByte (nn + 1) ∧ KeepsRegsBut s t [.h, .l] ∧
      t.sp = s.sp ∧ t.f = s.f ∧ KeepsMemory s t ∧ KeepsEngine s t ∧ Advances s t (.lhld nn) 3) ∧
    (∃ t, exec (.shld nn) s = .next t ∧ Stores s t [(nn, s.l), (nn + 1, s.h)] ∧ KeepsRegsBut s t [] ∧ t.sp = s.sp ∧
      t.f = s.f ∧ KeepsEngine s t ∧ Advances s t (.shld nn) 3) ∧
    Row (.lhld nn) [0b00101010#8, loByte nn, hiByte nn] 0x01#8 (16, 16) ∧
    Row (.shld nn) [0b00100010#8, loByte nn, hiByte nn] 0x02#8 (16, 16)

/-- `XCHG`: DE and HL change places, half by half. -/
def Obligations.ExchangeResult : Prop :=
  ∀ s : State,
    (∃ t, exec .xchg s = .next t ∧ t.h = s.d ∧ t.l = s.e ∧ t.d = s.h ∧ t.e = s.l ∧ KeepsRegsBut s t [.h, .l, .d, .e] ∧
      t.sp = s.sp ∧ t.f = s.f ∧ KeepsMemory s t ∧ KeepsEngine s t ∧ Advances s t .xchg 1) ∧
    Row .xchg [0b11101011#8] 0x00#8 (4, 4)

/-! ### Arithmetic (R501 to R520) -/

/-- `ADD`, `ADI`, `ADC`, `ACI` in register, memory and immediate form. -/
def Obligations.AdditionResult : Prop :=
  ∀ (s : State) (src : Reg) (n : Byte), FixedBits s →
    (∃ t, exec (.addR src) s = .next t ∧ AddsToA s t (.addR src) 1 (s.reg src) false) ∧
    (∃ t, exec .addM s = .next t ∧ AddsToA s t .addM 1 (s.getByte (join s.h s.l)) false) ∧
    (∃ t, exec (.adi n) s = .next t ∧ AddsToA s t (.adi n) 2 n false) ∧
    (∃ t, exec (.adcR src) s = .next t ∧ AddsToA s t (.adcR src) 1 (s.reg src) (s.flag .cy)) ∧
    (∃ t, exec .adcM s = .next t ∧ AddsToA s t .adcM 1 (s.getByte (join s.h s.l)) (s.flag .cy)) ∧
    (∃ t, exec (.aci n) s = .next t ∧ AddsToA s t (.aci n) 2 n (s.flag .cy)) ∧
    Row (.addR src) [0b10000#5 ++ src.code] 0x00#8 (4, 4) ∧
    Row .addM [0b10000110#8] 0x01#8 (7, 7) ∧
    Row (.adi n) [0b11000110#8, n] 0x00#8 (7, 7) ∧
    Row (.adcR src) [0b10001#5 ++ src.code] 0x00#8 (4, 4) ∧
    Row .adcM [0b10001110#8] 0x01#8 (7, 7) ∧
    Row (.aci n) [0b11001110#8, n] 0x00#8 (7, 7)

/-- `SUB`, `SUI`, `SBB`, `SBI` in register, memory and immediate form: CY is set on borrow, AC when the low nibble needs
no borrow. -/
def Obligations.SubtractionResult : Prop :=
  ∀ (s : State) (src : Reg) (n : Byte), FixedBits s →
    (∃ t, exec (.subR src) s = .next t ∧ SubtractsFromA s t (.subR src) 1 (s.reg src) false) ∧
    (∃ t, exec .subM s = .next t ∧ SubtractsFromA s t .subM 1 (s.getByte (join s.h s.l)) false) ∧
    (∃ t, exec (.sui n) s = .next t ∧ SubtractsFromA s t (.sui n) 2 n false) ∧
    (∃ t, exec (.sbbR src) s = .next t ∧ SubtractsFromA s t (.sbbR src) 1 (s.reg src) (s.flag .cy)) ∧
    (∃ t, exec .sbbM s = .next t ∧ SubtractsFromA s t .sbbM 1 (s.getByte (join s.h s.l)) (s.flag .cy)) ∧
    (∃ t, exec (.sbi n) s = .next t ∧ SubtractsFromA s t (.sbi n) 2 n (s.flag .cy)) ∧
    Row (.subR src) [0b10010#5 ++ src.code] 0x00#8 (4, 4) ∧
    Row .subM [0b10010110#8] 0x01#8 (7, 7) ∧
    Row (.sui n) [0b11010110#8, n] 0x00#8 (7, 7) ∧
    Row (.sbbR src) [0b10011#5 ++ src.code] 0x00#8 (4, 4) ∧
    Row .sbbM [0b10011110#8] 0x01#8 (7, 7) ∧
    Row (.sbi n) [0b11011110#8, n] 0x00#8 (7, 7)

/-- `INR` and `DCR` of a register or of the byte at HL: it counts by one mod 256; S, Z, P and AC follow; CY and every
other bit of F stay. -/
def Obligations.CountResult : Prop :=
  ∀ (s : State) (dst : Reg), FixedBits s →
    (∃ t, exec (.inrR dst) s = .next t ∧ t.reg dst = s.reg dst + 1 ∧
      CountFlags s t (s.reg dst + 1) (decide ((s.reg dst).toNat % 16 = 15)) ∧ KeepsRegsBut s t [dst] ∧ t.sp = s.sp ∧
      KeepsMemory s t ∧ KeepsEngine s t ∧ Advances s t (.inrR dst) 1) ∧
    (∃ t, exec (.dcrR dst) s = .next t ∧ t.reg dst = s.reg dst - 1 ∧
      CountFlags s t (s.reg dst - 1) (decide ((s.reg dst).toNat % 16 ≠ 0)) ∧ KeepsRegsBut s t [dst] ∧ t.sp = s.sp ∧
      KeepsMemory s t ∧ KeepsEngine s t ∧ Advances s t (.dcrR dst) 1) ∧
    (∃ t, exec .inrM s = .next t ∧ Stores s t [(join s.h s.l, s.getByte (join s.h s.l) + 1)] ∧
      CountFlags s t (s.getByte (join s.h s.l) + 1) (decide ((s.getByte (join s.h s.l)).toNat % 16 = 15)) ∧
      KeepsRegsBut s t [] ∧ t.sp = s.sp ∧ KeepsEngine s t ∧ Advances s t .inrM 1) ∧
    (∃ t, exec .dcrM s = .next t ∧ Stores s t [(join s.h s.l, s.getByte (join s.h s.l) - 1)] ∧
      CountFlags s t (s.getByte (join s.h s.l) - 1) (decide ((s.getByte (join s.h s.l)).toNat % 16 ≠ 0)) ∧
      KeepsRegsBut s t [] ∧ t.sp = s.sp ∧ KeepsEngine s t ∧ Advances s t .dcrM 1) ∧
    Row (.inrR dst) [0b00#2 ++ dst.code ++ 0b100#3] 0x00#8 (5, 5) ∧
    Row (.dcrR dst) [0b00#2 ++ dst.code ++ 0b101#3] 0x00#8 (5, 5) ∧
    Row .inrM [0b00110100#8] 0x03#8 (10, 10) ∧
    Row .dcrM [0b00110101#8] 0x03#8 (10, 10)

/-- `INX` and `DCX`: the pair counts by one mod 65536 and no flag changes. -/
def Obligations.CountPairResult : Prop :=
  ∀ (s : State) (pr : Pair),
    (∃ t, exec (.inx pr) s = .next t ∧ LoadsPair s t (.inx pr) 1 pr (s.pair pr + 1)) ∧
    (∃ t, exec (.dcx pr) s = .next t ∧ LoadsPair s t (.dcx pr) 1 pr (s.pair pr - 1)) ∧
    Row (.inx pr) [0b00#2 ++ pr.code ++ 0b0011#4] 0x00#8 (5, 5) ∧
    Row (.dcx pr) [0b00#2 ++ pr.code ++ 0b1011#4] 0x00#8 (5, 5)

/-- `DAD`: the pair is added to HL mod 65536, CY is the carry out, every other bit of F stays. -/
def Obligations.DoubleAddResult : Prop :=
  ∀ (s : State) (pr : Pair), FixedBits s →
    (∃ t, exec (.dad pr) s = .next t ∧ (join t.h t.l).toNat = ((join s.h s.l).toNat + (s.pair pr).toNat) % 65536 ∧
      FlagIs s t .cy (decide (65536 ≤ (join s.h s.l).toNat + (s.pair pr).toNat)) ∧ KeepsFlagsBut s t [.cy] ∧
      KeepsRegsBut s t [.h, .l] ∧ t.sp = s.sp ∧ KeepsMemory s t ∧ KeepsEngine s t ∧ Advances s t (.dad pr) 1) ∧
    Row (.dad pr) [0b00#2 ++ pr.code ++ 0b1001#4] 0x00#8 (10, 10)

/-- `DAA`: 6 is added when AC is set or the low nibble is above 9, 0x60 when CY is set or A is above 0x99; CY is set in
the second case and otherwise stays. -/
def Obligations.DecimalAdjustResult : Prop :=
  ∀ s : State, FixedBits s →
    (∃ t, exec .daa s = .next t ∧
      t.a.toNat =
        (s.a.toNat + (if s.flag .ac = true ∨ 9 < s.a.toNat % 16 then 6 else 0)
          + (if s.flag .cy = true ∨ 0x99 < s.a.toNat then 0x60 else 0)) % 256 ∧
      FlagIs s t .cy (decide (s.flag .cy = true ∨ 0x99 < s.a.toNat)) ∧
      FlagIs s t .ac
        (decide (16 ≤ s.a.toNat % 16 + (if s.flag .ac = true ∨ 9 < s.a.toNat % 16 then 6 else 0))) ∧
      SzpTell s t t.a ∧ AccumulatorFrame s t .daa 1) ∧
    Row .daa [0b00100111#8] 0x00#8 (4, 4)

/-! ### Logical, compare, rotate, flag (R601 to R619) -/

/-- `ANA` and `ANI`: CY is 0 and AC is bit 3 of the OR of the operands. -/
def Obligations.AndResult : Prop :=
  ∀ (s : State) (src : Reg) (n : Byte), FixedBits s →
    (∃ t, exec (.anaR src) s = .next t ∧
      LogicalToA s t (.anaR src) 1 (fun k => s.a.getLsbD k && (s.reg src).getLsbD k)
        (s.a.getLsbD 3 || (s.reg src).getLsbD 3)) ∧
    (∃ t, exec .anaM s = .next t ∧
      LogicalToA s t .anaM 1 (fun k => s.a.getLsbD k && (s.getByte (join s.h s.l)).getLsbD k)
        (s.a.getLsbD 3 || (s.getByte (join s.h s.l)).getLsbD 3)) ∧
    (∃ t, exec (.ani n) s = .next t ∧
      LogicalToA s t (.ani n) 2 (fun k => s.a.getLsbD k && n.getLsbD k) (s.a.getLsbD 3 || n.getLsbD 3)) ∧
    Row (.anaR src) [0b10100#5 ++ src.code] 0x00#8 (4, 4) ∧
    Row .anaM [0b10100110#8] 0x01#8 (7, 7) ∧
    Row (.ani n) [0b11100110#8, n] 0x00#8 (7, 7)

/-- `XRA`, `XRI`, `ORA` and `ORI`: CY and AC are 0. -/
def Obligations.XorOrResult : Prop :=
  ∀ (s : State) (src : Reg) (n : Byte), FixedBits s →
    (∃ t, exec (.xraR src) s = .next t ∧
      LogicalToA s t (.xraR src) 1 (fun k => s.a.getLsbD k != (s.reg src).getLsbD k) false) ∧
    (∃ t, exec .xraM s = .next t ∧
      LogicalToA s t .xraM 1 (fun k => s.a.getLsbD k != (s.getByte (join s.h s.l)).getLsbD k) false) ∧
    (∃ t, exec (.xri n) s = .next t ∧ LogicalToA s t (.xri n) 2 (fun k => s.a.getLsbD k != n.getLsbD k) false) ∧
    (∃ t, exec (.oraR src) s = .next t ∧
      LogicalToA s t (.oraR src) 1 (fun k => s.a.getLsbD k || (s.reg src).getLsbD k) false) ∧
    (∃ t, exec .oraM s = .next t ∧
      LogicalToA s t .oraM 1 (fun k => s.a.getLsbD k || (s.getByte (join s.h s.l)).getLsbD k) false) ∧
    (∃ t, exec (.ori n) s = .next t ∧ LogicalToA s t (.ori n) 2 (fun k => s.a.getLsbD k || n.getLsbD k) false) ∧
    Row (.xraR src) [0b10101#5 ++ src.code] 0x00#8 (4, 4) ∧
    Row .xraM [0b10101110#8] 0x01#8 (7, 7) ∧
    Row (.xri n) [0b11101110#8, n] 0x00#8 (7, 7) ∧
    Row (.oraR src) [0b10110#5 ++ src.code] 0x00#8 (4, 4) ∧
    Row .oraM [0b10110110#8] 0x01#8 (7, 7) ∧
    Row (.ori n) [0b11110110#8, n] 0x00#8 (7, 7)

/-- `CMP` and `CPI`: the flags of the subtraction, A kept; Z is 1 exactly when the operands are equal. -/
def Obligations.CompareResult : Prop :=
  ∀ (s : State) (src : Reg) (n : Byte), FixedBits s →
    (∃ t, exec (.cmpR src) s = .next t ∧ ComparesA s t (.cmpR src) 1 (s.reg src)) ∧
    (∃ t, exec .cmpM s = .next t ∧ ComparesA s t .cmpM 1 (s.getByte (join s.h s.l))) ∧
    (∃ t, exec (.cpi n) s = .next t ∧ ComparesA s t (.cpi n) 2 n) ∧
    Row (.cmpR src) [0b10111#5 ++ src.code] 0x00#8 (4, 4) ∧
    Row .cmpM [0b10111110#8] 0x01#8 (7, 7) ∧
    Row (.cpi n) [0b11111110#8, n] 0x00#8 (7, 7)

/-- `RLC`, `RRC`, `RAL`, `RAR`: where every bit of A goes, and CY. -/
def Obligations.RotateResult : Prop :=
  ∀ s : State, FixedBits s →
    (∃ t, exec .rlc s = .next t ∧ RotatesA s t .rlc (fun k => s.a.getLsbD ((k + 7) % 8)) (s.a.getLsbD 7)) ∧
    (∃ t, exec .rrc s = .next t ∧ RotatesA s t .rrc (fun k => s.a.getLsbD ((k + 1) % 8)) (s.a.getLsbD 0)) ∧
    (∃ t, exec .ral s = .next t ∧
      RotatesA s t .ral (fun k => if k = 0 then s.flag .cy else s.a.getLsbD (k - 1)) (s.a.getLsbD 7)) ∧
    (∃ t, exec .rar s = .next t ∧
      RotatesA s t .rar (fun k => if k = 7 then s.flag .cy else s.a.getLsbD (k + 1)) (s.a.getLsbD 0)) ∧
    Row .rlc [0b00000111#8] 0x00#8 (4, 4) ∧
    Row .rrc [0b00001111#8] 0x00#8 (4, 4) ∧
    Row .ral [0b00010111#8] 0x00#8 (4, 4) ∧
    Row .rar [0b00011111#8] 0x00#8 (4, 4)

/-- `CMA` complements A and leaves F; `CMC` and `STC` write CY alone. -/
def Obligations.ComplementAndCarryResult : Prop :=
  ∀ s : State, FixedBits s →
    (∃ t, exec .cma s = .next t ∧ (∀ k, k < 8 → t.a.getLsbD k = !s.a.getLsbD k) ∧ KeepsRegsBut s t [.a] ∧ t.sp = s.sp ∧
      t.f = s.f ∧ KeepsMemory s t ∧ KeepsEngine s t ∧ Advances s t .cma 1) ∧
    (∃ t, exec .cmc s = .next t ∧ FlagIs s t .cy (!s.flag .cy) ∧ KeepsFlagsBut s t [.cy] ∧ KeepsRegsBut s t [] ∧
      t.sp = s.sp ∧ KeepsMemory s t ∧ KeepsEngine s t ∧ Advances s t .cmc 1) ∧
    (∃ t, exec .stc s = .next t ∧ FlagIs s t .cy true ∧ KeepsFlagsBut s t [.cy] ∧ KeepsRegsBut s t [] ∧ t.sp = s.sp ∧
      KeepsMemory s t ∧ KeepsEngine s t ∧ Advances s t .stc 1) ∧
    Row .cma [0b00101111#8] 0x00#8 (4, 4) ∧
    Row .cmc [0b00111111#8] 0x00#8 (4, 4) ∧
    Row .stc [0b00110111#8] 0x00#8 (4, 4)

/-- The source's property of `ADD` and then `SUB` of the same register: A is restored, CY after the `SUB` is the `ADD`'s
carry and AC after it is the inverse of the `ADD`'s half carry (C1), under masks that leave CY and AC alone. -/
def Obligations.AddThenSubRestores : Prop :=
  ∀ (s t u : State) (src : Reg), src ≠ .a → s.par.flagAnd = 0xD7#8 → s.par.flagOr = 0x02#8 →
    exec (.addR src) s = .next t → exec (.subR src) t = .next u →
      u.a = s.a ∧ u.flag .cy = t.flag .cy ∧ u.flag .ac = !t.flag .ac

/-! ### Control transfer (R700 to R729) -/

/-- `JMP` and `PCHL`. -/
def Obligations.JumpResult : Prop :=
  ∀ (s : State) (nn : Word),
    (∃ t, exec (.jmp nn) s = .next t ∧ GoesTo s t (.jmp nn) true nn) ∧
    (∃ t, exec .pchl s = .next t ∧ GoesTo s t .pchl true (join s.h s.l)) ∧
    Row (.jmp nn) [0b11000011#8, loByte nn, hiByte nn] 0x20#8 (10, 10) ∧
    Row .pchl [0b11101001#8] 0x20#8 (5, 5)

/-- The eight conditional jumps: each by its own flag and sense, to the target or past its three bytes, at one cost
whatever the outcome (R700). -/
def Obligations.ConditionalJumpResult : Prop :=
  ∀ (s : State) (nn : Word),
    ∀ row ∈ [(Instr.jnz nn, !s.flag .z, 0b000#3), (.jz nn, s.flag .z, 0b001#3), (.jnc nn, !s.flag .cy, 0b010#3),
      (.jc nn, s.flag .cy, 0b011#3), (.jpo nn, !s.flag .p, 0b100#3), (.jpe nn, s.flag .p, 0b101#3),
      (.jp nn, !s.flag .s, 0b110#3), (.jm nn, s.flag .s, 0b111#3)],
      (∃ t, exec row.1 s = .next t ∧ GoesTo s t row.1 true (if row.2.1 then nn else s.pc + 3)) ∧
      Row row.1 [0b11#2 ++ row.2.2 ++ 0b010#3, loByte nn, hiByte nn] 0x20#8 (10, 10)

/-- `CALL`, `RST` and `RET`: the address after the instruction pushed and PC at the target, or at 8 times the restart
number; PC from the stack, IE not changed. -/
def Obligations.CallReturnResult : Prop :=
  ∀ (s : State) (nn : Word) (n : BitVec 3),
    (∃ t, exec (.call nn) s = .next t ∧ CallsTo s t (.call nn) nn (s.pc + 3)) ∧
    (∃ t, exec (.rst n) s = .next t ∧ CallsTo s t (.rst n) (BitVec.ofNat 16 (8 * n.toNat)) (s.pc + 1)) ∧
    (∃ t, exec .ret s = .next t ∧ ReturnsBack s t .ret) ∧
    Row (.call nn) [0b11001101#8, loByte nn, hiByte nn] 0x0A#8 (17, 17) ∧
    Row (.rst n) [0b11#2 ++ n ++ 0b111#3] 0x0A#8 (11, 11) ∧
    Row .ret [0b11001001#8] 0x11#8 (10, 10)

/-- The eight conditional calls: as `CALL` when the condition holds; otherwise on, with nothing pushed. -/
def Obligations.ConditionalCallResult : Prop :=
  ∀ (s : State) (nn : Word),
    ∀ row ∈ [(Instr.cnz nn, !s.flag .z, 0b000#3), (.cz nn, s.flag .z, 0b001#3), (.cnc nn, !s.flag .cy, 0b010#3),
      (.cc nn, s.flag .cy, 0b011#3), (.cpo nn, !s.flag .p, 0b100#3), (.cpe nn, s.flag .p, 0b101#3),
      (.cp nn, !s.flag .s, 0b110#3), (.cm nn, s.flag .s, 0b111#3)],
      (∃ t, exec row.1 s = .next t ∧
        if row.2.1 then CallsTo s t row.1 nn (s.pc + 3) else GoesTo s t row.1 false (s.pc + 3)) ∧
      Row row.1 [0b11#2 ++ row.2.2 ++ 0b100#3, loByte nn, hiByte nn] 0x0A#8 (17, 11)

/-- The eight conditional returns: as `RET` when the condition holds; otherwise on, SP unchanged. -/
def Obligations.ConditionalReturnResult : Prop :=
  ∀ s : State,
    ∀ row ∈ [(Instr.rnz, !s.flag .z, 0b000#3), (.rz, s.flag .z, 0b001#3), (.rnc, !s.flag .cy, 0b010#3),
      (.rc, s.flag .cy, 0b011#3), (.rpo, !s.flag .p, 0b100#3), (.rpe, s.flag .p, 0b101#3),
      (.rp, !s.flag .s, 0b110#3), (.rm, s.flag .s, 0b111#3)],
      (∃ t, exec row.1 s = .next t ∧
        if row.2.1 then ReturnsBack s t row.1 else GoesTo s t row.1 false (s.pc + 1)) ∧
      Row row.1 [0b11#2 ++ row.2.2 ++ 0b000#3] 0x11#8 (11, 5)

/-! ### Stack, I/O, machine control, undefined opcodes (R800 to R817) -/

/-- `PUSH rp` and `PUSH PSW`. -/
def Obligations.PushResult : Prop :=
  ∀ (s : State) (pr : Pair), pr.isStack = true →
    (∃ t, exec (.pushRp pr) s = .next t ∧ PushesWord s t (.pushRp pr) (s.pair pr)) ∧
    (∃ t, exec .pushPsw s = .next t ∧ PushesWord s t .pushPsw (join s.a s.f)) ∧
    Row (.pushRp pr) [0b11#2 ++ pr.code ++ 0b0101#4] 0x02#8 (11, 11) ∧
    Row .pushPsw [0b11110101#8] 0x02#8 (11, 11)

/-- `POP rp` and `POP PSW`; in the second the fixed bits of F are re-applied. -/
def Obligations.PopResult : Prop :=
  ∀ (s : State) (pr : Pair), pr.isStack = true →
    (∃ t, exec (.popRp pr) s = .next t ∧ t.pair pr = join (s.getByte (s.sp + 1)) (s.getByte s.sp) ∧ t.sp = s.sp + 2 ∧
      (∀ q, q ≠ pr → q ≠ .sp → t.pair q = s.pair q) ∧ t.a = s.a ∧ t.f = s.f ∧ KeepsMemory s t ∧ KeepsEngine s t ∧
      Advances s t (.popRp pr) 1) ∧
    (∃ t, exec .popPsw s = .next t ∧ t.a = s.getByte (s.sp + 1) ∧
      t.f = (s.getByte s.sp &&& s.par.flagAnd) ||| s.par.flagOr ∧ t.sp = s.sp + 2 ∧ KeepsRegsBut s t [.a] ∧
      KeepsMemory s t ∧ KeepsEngine s t ∧ Advances s t .popPsw 1) ∧
    Row (.popRp pr) [0b11#2 ++ pr.code ++ 0b0001#4] 0x01#8 (10, 10) ∧
    Row .popPsw [0b11110001#8] 0x01#8 (10, 10)

/-- `XTHL`: HL and the word at SP change places, SP unchanged. -/
def Obligations.ExchangeStackResult : Prop :=
  ∀ s : State,
    (∃ t, exec .xthl s = .next t ∧ t.l = s.getByte s.sp ∧ t.h = s.getByte (s.sp + 1) ∧
      Stores s t [(s.sp + 1, s.h), (s.sp, s.l)] ∧ t.sp = s.sp ∧ KeepsRegsBut s t [.h, .l] ∧ t.f = s.f ∧
      KeepsEngine s t ∧ Advances s t .xthl 1) ∧
    Row .xthl [0b11100011#8] 0x03#8 (18, 18)

/-- `SPHL` (R805), `EI` (R809, D19), `DI` (R810, D19), `NOP` (R811) and `HLT` (R812, D20): SP from HL; IE and the disable
delay set; IE cleared; nothing; halted with PC at the HLT byte. -/
def Obligations.MachineControlResult : Prop :=
  ∀ s : State,
    (∃ t, exec .sphl s = .next t ∧ t.sp = join s.h s.l ∧ KeepsRegsBut s t [] ∧ t.f = s.f ∧ KeepsMemory s t ∧
      KeepsEngine s t ∧ Advances s t .sphl 1) ∧
    (∃ t, exec .ei s = .next t ∧ t.ie = true ∧ t.dly = true ∧ KeepsEngine { s with ie := true, dly := true } t ∧
      KeepsRegsBut s t [] ∧ t.sp = s.sp ∧ t.f = s.f ∧ KeepsMemory s t ∧ Advances s t .ei 1) ∧
    (∃ t, exec .di s = .next t ∧ t.ie = false ∧ KeepsEngine { s with ie := false } t ∧ KeepsRegsBut s t [] ∧ t.sp = s.sp ∧
      t.f = s.f ∧ KeepsMemory s t ∧ Advances s t .di 1) ∧
    (∃ t, exec .nop s = .next t ∧ KeepsRegsBut s t [] ∧ t.sp = s.sp ∧ t.f = s.f ∧ KeepsMemory s t ∧ KeepsEngine s t ∧
      Advances s t .nop 1) ∧
    (∃ t, exec .hlt s = .next t ∧ t.halted = true ∧ KeepsEngine { s with halted := true } t ∧ t.pc = s.pc ∧
      KeepsRegsBut s t [] ∧ t.sp = s.sp ∧ t.f = s.f ∧ KeepsMemory s t ∧ Pays s t .hlt true) ∧
    Row .sphl [0b11111001#8] 0x00#8 (5, 5) ∧
    Row .ei [0b11111011#8] 0x00#8 (4, 4) ∧
    Row .di [0b11110011#8] 0x00#8 (4, 4) ∧
    Row .nop [0b00000000#8] 0x00#8 (4, 4) ∧
    Row .hlt [0b01110110#8] 0x40#8 (7, 7)

/-- The twelve undefined opcodes with UNDEF_ALIAS_MODE = isa_alias: `*NOP`, `*JMP`, `*RET` and `*CALL` do what `NOP`,
`JMP`, `RET` and `CALL` do. -/
def Obligations.UndefinedAliasResult : Prop :=
  ∀ (s : State) (x : BitVec 3) (y : BitVec 2) (nn : Word), s.par.undefMode = .isaAlias →
    (∃ t, exec (.undefNop x) s = .next t ∧ GoesTo s t (.undefNop x) true (s.pc + 1)) ∧
    (∃ t, exec (.undefJmp nn) s = .next t ∧ GoesTo s t (.undefJmp nn) true nn) ∧
    (∃ t, exec .undefRet s = .next t ∧ ReturnsBack s t .undefRet) ∧
    (∃ t, exec (.undefCall y nn) s = .next t ∧ CallsTo s t (.undefCall y nn) nn (s.pc + 3)) ∧
    Row (.undefNop x) [0b00#2 ++ x ++ 0b000#3] 0x80#8 (4, 4) ∧
    Row (.undefJmp nn) [0b11001011#8, loByte nn, hiByte nn] 0xA0#8 (10, 10) ∧
    Row .undefRet [0b11011001#8] 0x91#8 (10, 10) ∧
    Row (.undefCall y nn) [0b11#2 ++ y ++ 0b1101#4, loByte nn, hiByte nn] 0x8A#8 (17, 17)

/-- The twelve undefined opcodes with UNDEF_ALIAS_MODE = nop: PC goes one byte on, the cost is 4, nothing else changes
(R817); the class the exclusion mask sees is `undefined` alone (DEDUCED, notes/assumptions/21.md). -/
def Obligations.UndefinedNopResult : Prop :=
  ∀ (s : State) (i : Instr), s.par.undefMode = .nop → isUndefined i = true →
    classOf s.par i = 0x80#8 ∧
    ∃ t, exec i s = .next t ∧ t.pc = s.pc + 1 ∧ t.cyc = s.cyc + 4 + s.cyc % 2 ∧ KeepsRegsBut s t [] ∧ t.sp = s.sp ∧
      t.f = s.f ∧ KeepsMemory s t ∧ KeepsEngine s t

/-- `IN`: A gets what the port's sources give; the sources run inside the instruction and may change the bus, nothing
else changes; without a source A gets 0xFF and the bus stays. -/
def Obligations.PortInputResult : Prop :=
  ∀ (s : State) (port : Byte),
    (∀ v bus, ioRead s.asm s.cyc port s.bus = some (v, bus) →
      ∃ t, exec (.inp port) s = .next t ∧ t.a = v ∧ t.bus = bus ∧ KeepsEngine { s with bus := bus } t ∧
        KeepsRegsBut s t [.a] ∧ t.sp = s.sp ∧ t.f = s.f ∧ KeepsMemory s t ∧ Advances s t (.inp port) 2) ∧
    (registered s.asm.inputs port = [] →
      ∃ t, exec (.inp port) s = .next t ∧ t.a = 0xFF#8 ∧ KeepsEngine s t ∧ KeepsRegsBut s t [.a] ∧ t.sp = s.sp ∧ t.f = s.f ∧
        KeepsMemory s t ∧ Advances s t (.inp port) 2) ∧
    Row (.inp port) [0b11011011#8, port] 0x04#8 (10, 10)

/-- Among devices that do nothing else when called: a port reads as the AND of the bytes its sources show (0xFF without
a source), each asked once in registration order, and a port write reaches every sink with the same byte, in
registration order. A byte shown bit by bit has the levels of the pins and nodes it names, as they are at the read, and
1 where it names none. What a platform device is and the record of calls are the model's (notes/assumptions/8.md). -/
def Obligations.PortsReachEveryDevice : Prop :=
  ∀ (asm : Assembly) (now : Int) (port v : Byte) (bus : Bus) (shown : Nat → Byte),
    ((∀ dev ∈ registered asm.inputs port,
        (∃ r, kindOf asm dev = some (.platform r) ∧ r.onInput.lookup port = none) ∧
        ∃ shows out byte, bus.fields? dev = some (.platform shows out) ∧ shows.lookup port = some byte ∧
          shown dev = evalByte asm dev bus byte) →
      ioRead asm now port bus =
        some ((registered asm.inputs port).foldl (fun acc dev => acc &&& shown dev) 0xFF#8,
          { bus with calls := bus.calls ++ (registered asm.inputs port).map fun dev => .input dev port })) ∧
    ((∀ dev ∈ registered asm.outputs port, ∃ r, kindOf asm dev = some (.platform r) ∧ r.onOutput.lookup port = none) →
      ∃ bus', ioWrite asm now port v bus = some bus' ∧
        bus'.calls = bus.calls ++ (registered asm.outputs port).map (fun dev => .output dev port v) ∧
        bus'.events = bus.events ∧ bus'.intReq = bus.intReq ∧ bus'.rstReq = bus.rstReq ∧
        (∀ p : PinId, bus'.level p = bus.level p)) ∧
    (∀ (dev : Nat) (levels : List LevelExpr) (i : Nat), i < 8 →
      (evalByte asm dev bus (.bits levels)).getLsbD i = ((levels[i]?).map (evalLevel asm dev bus)).getD true)

/-- `OUT`: the port's sinks get A inside the instruction and may change the bus, nothing else changes; without a sink
nothing happens. -/
def Obligations.PortOutputResult : Prop :=
  ∀ (s : State) (port : Byte),
    (∀ bus, ioWrite s.asm s.cyc port s.a s.bus = some bus →
      ∃ t, exec (.out port) s = .next t ∧ t.bus = bus ∧ KeepsEngine { s with bus := bus } t ∧ KeepsRegsBut s t [] ∧
        t.sp = s.sp ∧ t.f = s.f ∧ KeepsMemory s t ∧ Advances s t (.out port) 2) ∧
    (registered s.asm.outputs port = [] →
      ∃ t, exec (.out port) s = .next t ∧ KeepsEngine s t ∧ KeepsRegsBut s t [] ∧ t.sp = s.sp ∧ t.f = s.f ∧
        KeepsMemory s t ∧ Advances s t (.out port) 2) ∧
    Row (.out port) [0b11010011#8, port] 0x04#8 (10, 10)

/-! ### Encoding (R301 to R314) -/

/-- Decoding the encoding of any well-formed instruction, whatever bytes follow, gives it back and leaves those bytes. -/
def Obligations.DecodeEncodeRoundTrip : Prop :=
  ∀ (i : Instr) (rest : List Byte), i.wf = true → decode (encode i ++ rest) = .ok (i, rest)

/-- The other way: what any three bytes decode to is well-formed and is encoded by the first of those bytes, as many as
the instruction is long. -/
def Obligations.EncodeDecodedBytes : Prop :=
  ∀ op b1 b2 : Byte,
    (decodeBytes op b1 b2).wf = true ∧
      encode (decodeBytes op b1 b2) = [op, b1, b2].take (decodeBytes op b1 b2).length

/-- A few words from the spec's own examples. -/
def Obligations.KnownWordsDecode : Prop :=
  decodeTableWord 16 0x053E = some (.mviR .a 0x05#8) ∧ decodeTableWord 8 0x80 = some (.addR .b) ∧
    decodeTableWord 8 0x76 = some .hlt ∧ decodeTableWord 24 0x123421 = some (.lxi .hl 0x1234#16) ∧
    decodeTableWord 24 0x0300FD = some (.undefCall 3#2 0x0300#16) ∧ decodeTableWord 8 0xFF = some (.rst 7#3) ∧
    decodeTableWord 24 0x0200C2 = some (.jnz 0x0200#16)

/-! ### The step -/

/-- With no reset latched, no interrupt to take, no halt and no excluded class after the drain, a step runs the
instruction that the bytes at PC encode, with the disable delay cleared. A step is a pass under the mask that the model
keeps in the state (notes/assumptions/18.md). -/
def Obligations.StepRunsDecodedInstruction : Prop :=
  ∀ (s t : State) (i : Instr), s.drain = some t → t.bus.rstReq = false → t.interruptTakeable = false →
    t.halted = false → decodeBytes (t.getByte t.pc) (t.getByte (t.pc + 1)) (t.getByte (t.pc + 2)) = i →
    classOf t.par i &&& t.exclMask = 0#8 →
    i.wf = true ∧ step s = exec i { t with dly := false }

/-- How a pass ends, by the priority reset, interrupt, halt, exclusion, instruction, read after the drain (the spec
derives it in R919 from R904); what a halt tick leaves (R906), and an exclusion (R902; that it is a pass with a next
state is the model's reading, DEDUCED, notes/assumptions/5.md). The class the exclusion is tested on is the opcode
table's (R320, R321), but for an undefined opcode under UNDEF_ALIAS_MODE = nop (DEDUCED, notes/assumptions/21.md), and
the undefined opcodes are those whose class in the table says so. -/
def Obligations.PassPriority : Prop :=
  (∀ (mask : Byte) (s t u : State) (k : StepKind), s.drain = some t → pass mask s = .next (k, u) →
    (k = .reset ↔ t.bus.rstReq = true) ∧
    (k = .serviced ↔ t.bus.rstReq = false ∧ t.bus.intReq = true ∧ t.ie = true ∧ t.dly = false) ∧
    (k = .tick ↔ t.bus.rstReq = false ∧ ¬(t.bus.intReq = true ∧ t.ie = true ∧ t.dly = false) ∧ t.halted = true) ∧
    (k = .excluded ↔ t.bus.rstReq = false ∧ ¬(t.bus.intReq = true ∧ t.ie = true ∧ t.dly = false) ∧ t.halted = false ∧
      classOf t.par t.fetch &&& mask ≠ 0#8) ∧
    (k = .executed ↔ t.bus.rstReq = false ∧ ¬(t.bus.intReq = true ∧ t.ie = true ∧ t.dly = false) ∧ t.halted = false ∧
      classOf t.par t.fetch &&& mask = 0#8) ∧
    (k = .tick → u = { t with cyc := t.cyc + 1 + t.cyc % 2 }) ∧ (k = .excluded → u = t)) ∧
  (∀ (par : Params) (i : Instr),
    (par.undefMode = .isaAlias ∨ isUndefined i = false → classOf par i = tableClass i) ∧
      (par.undefMode = .nop → isUndefined i = true → classOf par i = 0x80#8) ∧
      (isUndefined i = true ↔ tableClass i &&& 0x80#8 ≠ 0#8))

/-- Only `IN` and `OUT` can stop, and they stop exactly where a propagation of their devices does not end, which the
model's fault stands for (DEDUCED, notes/assumptions/7.md); nothing is refused. -/
def Obligations.OnlyPortsCanHang : Prop :=
  ∀ (i : Instr) (s : State),
    (∀ x, exec i s ≠ .refused x) ∧
    ((∀ port, i ≠ .inp port) → (∀ port, i ≠ .out port) → ∃ t, exec i s = .next t) ∧
    (∀ port, i = .inp port → ioRead s.asm s.cyc port s.bus = none → exec i s = .fault .notificationHang) ∧
    (∀ port, i = .out port → ioWrite s.asm s.cyc port s.a s.bus = none → exec i s = .fault .notificationHang) ∧
    (∀ x, exec i s = .fault x →
      (∃ port, i = .inp port ∧ ioRead s.asm s.cyc port s.bus = none) ∨
        ∃ port, i = .out port ∧ ioWrite s.asm s.cyc port s.a s.bus = none)

/-- Every instruction leaves CYC with the parity of its base cost, whatever it started from. The base cost is the opcode
table's default, for the outcome, where the machine has no cost of its own for the opcode, and else the machine's (R10,
R1021; that these stand in a list of exceptions is the model's, DESIGN CHOICE, notes/assumptions/11.md); it depends on
the outcome for the conditional calls and returns alone (R700), opcodes 11ccc100 and 11ccc000. -/
def Obligations.CycleParityIsBaseCost : Prop :=
  (∀ (i : Instr) (s t : State), exec i s = .next t →
    ∃ cost, (cost = baseCost s.par i true ∨ cost = baseCost s.par i false ∨ (isUndefined i = true ∧ cost = 4)) ∧
      t.cyc = s.cyc + cost + s.cyc % 2 ∧ t.cyc % 2 = cost % 2) ∧
  (∀ (par : Params) (i : Instr),
    (par.costs.lookup i.opcode = none →
      baseCost par i true = (defaultCost i).1 ∧ baseCost par i false = (defaultCost i).2) ∧
    (∀ cost, par.costs.lookup i.opcode = some cost →
      baseCost par i true = cost.1 ∧ baseCost par i false = if costByOutcome i then cost.2 else cost.1) ∧
    (costByOutcome i = true ↔ i.opcode &&& 0b11000111#8 = 0b11000100#8 ∨ i.opcode &&& 0b11000111#8 = 0b11000000#8))

/-- Every pass but a reset and an exclusion advances CYC, when no cost of the machine is 0. -/
def Obligations.PassAdvancesCycles : Prop :=
  ∀ (mask : Byte) (s u : State) (k : StepKind), paramsOk s.par = true → pass mask s = .next (k, u) →
    k ≠ .reset → k ≠ .excluded → s.cyc < u.cyc

/-- Memory in canonical form (the model's own, notes/assumptions/1.md), F with its fixed bits, events in order and pins
in place stay so at every step. -/
def Obligations.InvariantKeptByStep : Prop :=
  ∀ s t : State, s.Inv → step s = .next t → t.Inv

/-- The machine right after reset meets the invariant. -/
def Obligations.InvariantHoldsAtReset : Prop := State.reset.Inv

/-- No step changes the opcode costs, the other parameters, the wiring or the port lists (kept in the state by the model's
choice, notes/assumptions/3.md and 4.md). -/
def Obligations.ConfigurationNeverChanges : Prop :=
  ∀ s t : State, step s = .next t → t.par = s.par ∧ t.asm = s.asm ∧ t.exclMask = s.exclMask

/-! ### Interrupts and halt (R906, R910 to R922) -/

/-- A taken interrupt with restart-vector dispatch: PC forced by INTVEC (R912: the parameter RST_TARGET, kept by the model
as a list of exceptions to its default, DESIGN CHOICE, notes/assumptions/12.md), nothing pushed, IE, the request and the
halt cleared (R911), the cost and the wait cycle charged. -/
def Obligations.RestartDispatchResult : Prop :=
  ∀ (mask : Byte) (s t : State), s.drain = some t → t.bus.rstReq = false → t.bus.intReq = true → t.ie = true →
    t.dly = false → t.par.intMode = .restart →
    ∃ u, pass mask s = .next (.serviced, u) ∧
      (t.par.rstTargets.lookup t.bus.intVec = none → u.pc.toNat = t.bus.intVec.toNat % 256 / 8 % 8 * 8) ∧
      (∀ w, t.par.rstTargets.lookup t.bus.intVec = some w → u.pc = w) ∧ Params.default.intRstCost = 11 ∧
      u.ie = false ∧ u.bus = { t.bus with intReq := false } ∧ u.halted = false ∧ u.dly = t.dly ∧ u.par = t.par ∧
      u.asm = t.asm ∧ u.exclMask = t.exclMask ∧ KeepsRegsBut t u [] ∧ u.sp = t.sp ∧ u.f = t.f ∧ KeepsMemory t u ∧
      u.cyc = t.cyc + t.par.intRstCost + t.cyc % 2

/-- A taken interrupt with call-style dispatch: the PC of the instruction that would have run next is pushed, one past
the HLT byte when the CPU was halted, PC is the supplied address (R913), IE, the request and the halt are cleared
(R911), the cost and the wait cycle are charged (R907, R908, R914). -/
def Obligations.CallDispatchResult : Prop :=
  ∀ (mask : Byte) (s t : State), s.drain = some t → t.bus.rstReq = false → t.bus.intReq = true → t.ie = true →
    t.dly = false → t.par.intMode = .call →
    ∃ u, pass mask s = .next (.serviced, u) ∧ u.pc = t.bus.intVec ∧ u.sp = t.sp - 2 ∧
      Stores t u
        [(t.sp - 1, hiByte (if t.halted then t.pc + 1 else t.pc)),
          (t.sp - 2, loByte (if t.halted then t.pc + 1 else t.pc))] ∧
      u.ie = false ∧ u.bus = { t.bus with intReq := false } ∧ u.halted = false ∧ u.dly = t.dly ∧ u.par = t.par ∧
      u.asm = t.asm ∧ u.exclMask = t.exclMask ∧ KeepsRegsBut t u [] ∧ u.f = t.f ∧
      u.cyc = t.cyc + t.par.intCallCost + t.cyc % 2 ∧ Params.default.intCallCost = 17

/-- `EI` sets IE and the disable delay, and no pass after it takes an interrupt; halt ticks and exclusions leave the
delay, an executed instruction other than `EI` clears it. After `DI` no pass takes an interrupt. -/
def Obligations.EnableDelaysOneInstruction : Prop :=
  (∀ s t : State, exec .ei s = .next t →
    t.ie = true ∧ t.dly = true ∧ ∀ (mask : Byte) (u : State) (k : StepKind), pass mask t = .next (k, u) → k ≠ .serviced) ∧
  (∀ (mask : Byte) (s t u : State) (k : StepKind), s.drain = some t → pass mask s = .next (k, u) →
    (k = .tick ∨ k = .excluded → u.dly = s.dly) ∧ (k = .executed → t.fetch ≠ .ei → u.dly = false)) ∧
  (∀ s t : State, exec .di s = .next t →
    ∀ (mask : Byte) (u : State) (k : StepKind), pass mask t = .next (k, u) → k ≠ .serviced)

/-- A finished CPU stays finished: without a reset latched after the drain, the pass is a halt tick that leaves every
register, PC, SP, F and memory, and the CPU is still finished. -/
def Obligations.FinishedStaysFinished : Prop :=
  ∀ (mask : Byte) (s t : State), s.Finished → s.drain = some t → t.bus.rstReq = false →
    ∃ u, pass mask s = .next (.tick, u) ∧ u.Finished ∧ u.pc = s.pc ∧ u.sp = s.sp ∧ u.f = s.f ∧ KeepsMemory s u ∧
      KeepsRegsBut s u [] ∧ u.cyc = s.cyc + 1 + s.cyc % 2

/-! ### The host's calls (R901 to R909, R921) -/

/-- `exec(1, 0, no breakpoints)` is exactly one pass, and so is `exec(0, mask, breakpoints)`. -/
def Obligations.SingleStepIsOnePass : Prop :=
  ∀ (mask : Byte) (bps : List Word) (s : State), paramsOk s.par = true →
    (∀ k u, pass 0#8 s = .next (k, u) → ∃ r, runExec 1 0#8 [] s = .next (r, u)) ∧
    (∀ k u, pass mask s = .next (k, u) → ∃ r, runExec 0 mask bps s = .next (r, u))

/-- `exec` is never refused on a machine without a zero cost (the model's reading of R903, notes/assumptions/17.md), and
its reason tells the truth: the budget is used up; or PC is a breakpoint; or, after passes that each ended in neither, the
last pass met an instruction of an excluded class after its drain and left it there; or it found a reset latched after
its drain and did it. -/
def Obligations.ExecEndsForItsReason : Prop :=
  ∀ (n : Nat) (mask : Byte) (bps : List Word) (s : State), paramsOk s.par = true →
    (∀ x, runExec n mask bps s ≠ .refused x) ∧
    (∀ u, runExec n mask bps s = .next (.budget, u) → s.cyc + n ≤ u.cyc) ∧
    (∀ u, runExec n mask bps s = .next (.breakpoint, u) → u.pc ∈ bps) ∧
    (∀ u, runExec n mask bps s = .next (.excluded, u) →
      ∃ m v, PassesLeadTo mask m s v ∧ v.drain = some u ∧ classOf u.par u.fetch &&& mask ≠ 0#8) ∧
    (∀ u, runExec n mask bps s = .next (.reset, u) →
      ∃ m v w, PassesLeadTo mask m s v ∧ v.drain = some w ∧ w.bus.rstReq = true ∧ resetMachine w = some u)

/-- `idle(n)` advances CYC by exactly n, without wait cycles, and changes nothing but CYC and the bus. -/
def Obligations.IdleAdvancesExactly : Prop :=
  ∀ (n : Nat) (s t : State), idle n s = some t →
    t = { s with cyc := s.cyc + n, bus := t.bus }

/-! ### Scheduler, pins, peripherals (R930 to R964) -/

/-- The drain's snapshot holds exactly the due events, in the order of trigger and then insertion; over platform devices
that do not react (the model's, notes/assumptions/8.md) a drain calls each due event's device, in that order, and leaves
exactly the events that are not due. -/
def Obligations.DrainFiresDueInOrder : Prop :=
  ∀ (asm : Assembly) (now : Int) (bus : Bus), EventsOrdered bus →
    (bus.due now).Pairwise (fun e e' => e.trigger < e'.trigger ∨ (e.trigger = e'.trigger ∧ e.seq < e'.seq)) ∧
    (bus.due now).Perm (bus.events.filter fun e => e.trigger ≤ now) ∧
    ((∀ e ∈ bus.events, ∃ r, kindOf asm e.dev = some (.platform r) ∧ r.onFire = []) →
      runSchedule asm now bus =
        some { bus with
          events := bus.events.filter fun e => now < e.trigger
          calls := bus.calls ++ (bus.due now).map fun e => .fired e.dev e.param })

/-- Events a callback adds wait for the next drain, whatever their trigger: a drain whose every callback adds one event
fires the due events once each and leaves the added ones. -/
def Obligations.AddedEventsWait : Prop :=
  ∀ (now trigger : Int) (bus : Bus), EventsOrdered bus →
    ∃ bus', drainWith (fun dev x b => some ((b.record (.fired dev x)).addEvent dev trigger x)) now bus = some bus' ∧
      bus'.calls = bus.calls ++ (bus.due now).map (fun e => .fired e.dev e.param) ∧
      bus'.events.map (fun e => (e.dev, e.trigger, e.param)) =
        (bus.events.filter fun e => now < e.trigger).map (fun e => (e.dev, e.trigger, e.param)) ++
          (bus.due now).map fun e => (e.dev, trigger, e.param)

/-- Driving a pin: nothing when its level stays; no notification when the node's level stays; otherwise, among devices
that do not react (the model's, notes/assumptions/8.md), every other pin's owner of the node is notified once, in wiring
order, with the new level. -/
def Obligations.DriveNotifiesInWiringOrder : Prop :=
  ∀ (asm : Assembly) (now : Int) (p : PinId) (v : Bool) (bus : Bus) (ps : List PinId), nodeOf asm p = some ps →
    (v = bus.level p → drive asm now p v bus = some bus) ∧
    (v ≠ bus.level p → (bus.setLevel p v).nodeLevel ps = bus.nodeLevel ps → drive asm now p v bus = some (bus.setLevel p v)) ∧
    (v ≠ bus.level p → (bus.setLevel p v).nodeLevel ps ≠ bus.nodeLevel ps →
      (∀ q ∈ ps, nodeOf asm q = some ps ∧ ∃ r, kindOf asm q.dev = some (.platform r) ∧ r.onNotify = []) →
      drive asm now p v bus =
        some { bus.setLevel p v with
          calls := bus.calls ++ (ps.filter fun q => q ≠ p).map fun q =>
            .notified q.dev q.idx ((bus.setLevel p v).nodeLevel ps) })

/-- A frequency divider of period n alone on its pin, from reset: after m cycles of `idle` CYC is m and the output is 1
exactly when m / n is even, so that it toggles at every multiple of n and nowhere else. -/
def Obligations.DividerTogglesEveryPeriod : Prop :=
  ∀ (n m : Nat) (s r : State), 1 ≤ n → s.asm = ⟨[⟨.divider n, 1⟩], [], [], []⟩ →
    resetMachine s = some r →
    ∃ t, idle m r = some t ∧ t.cyc = m ∧ t.bus.level ⟨0, 0⟩ = decide (m / n % 2 = 0)

/-- The serial decoder. Notified of its input: with no window open an edge opens one, due at CYC + MAN_DELAY, and a level
equal to the last sample's (the reset sweep) is ignored; with a window open the notification is absorbed, and so is any
that follows the edge that opened it. Notified of an output it does nothing. Its sample, the output pins unattached: a
level equal to the last is a zero-length pulse, the bounded run of which flips the phase; another level is a bit, with
data and one clock edge. -/
def Obligations.DecoderSampleResult : Prop :=
  ∀ (asm : Assembly) (now param : Int) (dev delay zmax zrun : Nat) (phase last : Bool) (bus : Bus) (levels : List Bool),
    kindOf asm dev = some (.decoder delay zmax) → bus.device? dev = some ⟨levels, .decoder phase last zrun⟩ →
    ((∀ e ∈ bus.events, e.dev ≠ dev) → bus.queryNode asm ⟨dev, 0⟩ ≠ last →
      notifyChange asm now ⟨dev, 0⟩ bus = some (bus.addEvent dev (now + delay) 0) ∧
        ∀ later : Int, notifyChange asm later ⟨dev, 0⟩ (bus.addEvent dev (now + delay) 0) =
          some (bus.addEvent dev (now + delay) 0)) ∧
    ((∀ e ∈ bus.events, e.dev ≠ dev) → bus.queryNode asm ⟨dev, 0⟩ = last →
      notifyChange asm now ⟨dev, 0⟩ bus = some bus) ∧
    ((∃ e ∈ bus.events, e.dev = dev) → notifyChange asm now ⟨dev, 0⟩ bus = some bus) ∧
    (∀ pin, pin ≠ 0 → notifyChange asm now ⟨dev, pin⟩ bus = some bus) ∧
    (levels.length = 3 → nodeOf asm ⟨dev, 1⟩ = none → nodeOf asm ⟨dev, 2⟩ = none →
      (bus.queryNode asm ⟨dev, 0⟩ = last → zrun + 1 < zmax →
        fire asm now dev param bus = some (bus.setFields dev (.decoder phase last (zrun + 1)))) ∧
      (bus.queryNode asm ⟨dev, 0⟩ = last → zmax ≤ zrun + 1 →
        fire asm now dev param bus = some (bus.setFields dev (.decoder (!phase) last 0))) ∧
      (bus.queryNode asm ⟨dev, 0⟩ ≠ last →
        ∃ bus', fire asm now dev param bus = some bus' ∧
          bus'.fields? dev = some (.decoder phase (bus.queryNode asm ⟨dev, 0⟩) 0) ∧
          bus'.level ⟨dev, 1⟩ = (bus.queryNode asm ⟨dev, 0⟩ != phase) ∧ bus'.level ⟨dev, 2⟩ = !bus.level ⟨dev, 2⟩ ∧
          bus'.events = bus.events))

/-- The level sampler notified of its clock, its output unattached: it latches its input on a falling edge and drives
the latch while the clock is low and its inverse while it is high. -/
def Obligations.SamplerClockResult : Prop :=
  ∀ (asm : Assembly) (now : Int) (dev : Nat) (latch prev : Bool) (bus : Bus) (levels : List Bool),
    kindOf asm dev = some .sampler → bus.device? dev = some ⟨levels, .sampler latch prev⟩ → levels.length = 3 →
    nodeOf asm ⟨dev, 2⟩ = none →
    ∃ bus' latch', notifyChange asm now ⟨dev, 1⟩ bus = some bus' ∧
      (latch' = if prev = true ∧ bus.queryNode asm ⟨dev, 1⟩ = false then bus.queryNode asm ⟨dev, 0⟩ else latch) ∧
      bus'.fields? dev = some (.sampler latch' (bus.queryNode asm ⟨dev, 1⟩)) ∧
      bus'.level ⟨dev, 2⟩ = (if bus.queryNode asm ⟨dev, 1⟩ then !latch' else latch')

/-- The auto-reset driver alone on its pin: `activate` drives the active level and leaves one event at the limit, which
drives the inactive level when it fires; `deactivate` drives it at once and leaves no event. -/
def Obligations.AutoResetSilences : Prop :=
  ∀ (asm : Assembly) (now later param : Int) (dev limit : Nat) (active : Bool) (bus : Bus) (levels : List Bool)
    (fields : DeviceFields),
    kindOf asm dev = some (.autoReset limit active) → bus.device? dev = some ⟨levels, fields⟩ → levels.length = 1 →
    nodeOf asm ⟨dev, 0⟩ = none →
    (∃ bus', activate asm now dev bus = some bus' ∧ bus'.level ⟨dev, 0⟩ = active ∧
      bus'.events.filter (fun e => e.dev = dev) = [⟨dev, now + limit, 0, bus.nextSeq⟩]) ∧
    (∃ bus', fire asm later dev param bus = some bus' ∧ bus'.level ⟨dev, 0⟩ = !active ∧ bus'.events = bus.events) ∧
    (∃ bus', deactivate asm now dev bus = some bus' ∧ bus'.level ⟨dev, 0⟩ = !active ∧
      bus'.events = bus.events.filter fun e => e.dev ≠ dev)

/-! ### Reset (R130, R1001 to R1006) -/

/-- What `reset()` leaves, from any state: registers, IE, DLY, HALTED and CYC at their reset values (F through the masks,
DEDUCED, notes/assumptions/13.md), memory, wiring and parameters untouched, and INTREQ, INTVEC and RSTREQ at theirs in
every wiring without a platform device, which alone can make a request during the reset (the model's reading, DEDUCED,
notes/assumptions/29.md). -/
def Obligations.ResetSequenceResult : Prop :=
  ∀ s t : State, resetMachine s = some t →
    KeepsRegsBut State.reset t [] ∧ t.f = (0x02#8 &&& s.par.flagAnd) ||| s.par.flagOr ∧ t.sp = 0x0000#16 ∧
      t.pc = 0x0000#16 ∧ t.ie = false ∧ t.dly = false ∧ t.halted = false ∧ t.cyc = 0 ∧ KeepsMemory s t ∧ t.par = s.par ∧
      t.asm = s.asm ∧ t.exclMask = s.exclMask ∧
      ((∀ decl ∈ s.asm.devices, ∀ r, decl.kind ≠ .platform r) →
        t.bus.intReq = false ∧ t.bus.intVec = 0x0000#16 ∧ t.bus.rstReq = false)

/-- Reset is idempotent in every wiring, and what it leaves depends on nothing but the configuration: from two states of
one configuration it ends in both or in neither, and the results differ in MEM, which it leaves, and in the model's own
exclusion mask and count of free port values alone. Unwired and without platform devices it always ends, and no request
is left. R1003 derives this from R1001; it holds because the model puts the devices' fields to their first values before
any hook (DESIGN CHOICE, notes/assumptions/15.md). -/
def Obligations.ResetIsIdempotent : Prop :=
  (∀ s t : State, resetMachine s = some t → resetMachine t = some t) ∧
  (∀ s s' : State, s'.par = s.par → s'.asm = s.asm →
    resetMachine s' =
      (resetMachine s).map fun t =>
        { t with
          mem := s'.mem, bank := s'.bank, outside := s'.outside, exclMask := s'.exclMask
          bus := { t.bus with frees := s'.bus.frees } }) ∧
  (∀ s : State, s.asm.nodes = [] → (∀ decl ∈ s.asm.devices, ∀ r, decl.kind ≠ .platform r) →
    ∃ t, resetMachine s = some t ∧ t.bus.intReq = false ∧ t.bus.rstReq = false ∧ t.bus.intVec = 0x0000#16)

/-- The state the machine starts in, with nothing assembled by the model's choice (notes/assumptions/4.md): every register
at its reset value, and what `reset()` gives from itself. -/
def Obligations.ResetStateValues : Prop :=
  State.reset.a = 0x00#8 ∧ State.reset.b = 0x00#8 ∧ State.reset.c = 0x00#8 ∧ State.reset.d = 0x00#8 ∧
    State.reset.e = 0x00#8 ∧ State.reset.h = 0x00#8 ∧ State.reset.l = 0x00#8 ∧ State.reset.f = 0x02#8 ∧
    State.reset.sp = 0x0000#16 ∧ State.reset.pc = 0x0000#16 ∧ State.reset.ie = false ∧ State.reset.dly = false ∧
    State.reset.halted = false ∧ State.reset.cyc = 0 ∧ State.reset.bus.events = [] ∧ State.reset.bus.intReq = false ∧
    State.reset.bus.intVec = 0x0000#16 ∧ State.reset.bus.rstReq = false ∧ resetMachine State.reset = some State.reset
end

