-- ==== Sys2Proof/Laws/State.lean ====
section
/-! SUPPORT. What each update of the state leaves as it was: one lemma per field per update, so that no later proof
unfolds a record update. -/

namespace Sys2Proof.Machine

/-! ### setByte -/

@[simp] theorem setByte_a (s : State) (x : Word) (v : Byte) : (s.setByte x v).a = s.a := rfl
@[simp] theorem setByte_b (s : State) (x : Word) (v : Byte) : (s.setByte x v).b = s.b := rfl
@[simp] theorem setByte_c (s : State) (x : Word) (v : Byte) : (s.setByte x v).c = s.c := rfl
@[simp] theorem setByte_d (s : State) (x : Word) (v : Byte) : (s.setByte x v).d = s.d := rfl
@[simp] theorem setByte_e (s : State) (x : Word) (v : Byte) : (s.setByte x v).e = s.e := rfl
@[simp] theorem setByte_h (s : State) (x : Word) (v : Byte) : (s.setByte x v).h = s.h := rfl
@[simp] theorem setByte_l (s : State) (x : Word) (v : Byte) : (s.setByte x v).l = s.l := rfl
@[simp] theorem setByte_f (s : State) (x : Word) (v : Byte) : (s.setByte x v).f = s.f := rfl
@[simp] theorem setByte_sp (s : State) (x : Word) (v : Byte) : (s.setByte x v).sp = s.sp := rfl
@[simp] theorem setByte_pc (s : State) (x : Word) (v : Byte) : (s.setByte x v).pc = s.pc := rfl
@[simp] theorem setByte_ie (s : State) (x : Word) (v : Byte) : (s.setByte x v).ie = s.ie := rfl
@[simp] theorem setByte_dly (s : State) (x : Word) (v : Byte) : (s.setByte x v).dly = s.dly := rfl
@[simp] theorem setByte_halted (s : State) (x : Word) (v : Byte) : (s.setByte x v).halted = s.halted := rfl
@[simp] theorem setByte_cyc (s : State) (x : Word) (v : Byte) : (s.setByte x v).cyc = s.cyc := rfl
@[simp] theorem setByte_bus (s : State) (x : Word) (v : Byte) : (s.setByte x v).bus = s.bus := rfl
@[simp] theorem setByte_par (s : State) (x : Word) (v : Byte) : (s.setByte x v).par = s.par := rfl
@[simp] theorem setByte_asm (s : State) (x : Word) (v : Byte) : (s.setByte x v).asm = s.asm := rfl
@[simp] theorem setByte_exclMask (s : State) (x : Word) (v : Byte) : (s.setByte x v).exclMask = s.exclMask := rfl

/-! ### loadByte -/

@[simp] theorem loadByte_a (s : State) (x : Word) (v : Byte) : (s.loadByte x v).a = s.a := rfl
@[simp] theorem loadByte_b (s : State) (x : Word) (v : Byte) : (s.loadByte x v).b = s.b := rfl
@[simp] theorem loadByte_c (s : State) (x : Word) (v : Byte) : (s.loadByte x v).c = s.c := rfl
@[simp] theorem loadByte_d (s : State) (x : Word) (v : Byte) : (s.loadByte x v).d = s.d := rfl
@[simp] theorem loadByte_e (s : State) (x : Word) (v : Byte) : (s.loadByte x v).e = s.e := rfl
@[simp] theorem loadByte_h (s : State) (x : Word) (v : Byte) : (s.loadByte x v).h = s.h := rfl
@[simp] theorem loadByte_l (s : State) (x : Word) (v : Byte) : (s.loadByte x v).l = s.l := rfl
@[simp] theorem loadByte_f (s : State) (x : Word) (v : Byte) : (s.loadByte x v).f = s.f := rfl
@[simp] theorem loadByte_sp (s : State) (x : Word) (v : Byte) : (s.loadByte x v).sp = s.sp := rfl
@[simp] theorem loadByte_pc (s : State) (x : Word) (v : Byte) : (s.loadByte x v).pc = s.pc := rfl
@[simp] theorem loadByte_ie (s : State) (x : Word) (v : Byte) : (s.loadByte x v).ie = s.ie := rfl
@[simp] theorem loadByte_dly (s : State) (x : Word) (v : Byte) : (s.loadByte x v).dly = s.dly := rfl
@[simp] theorem loadByte_halted (s : State) (x : Word) (v : Byte) : (s.loadByte x v).halted = s.halted := rfl
@[simp] theorem loadByte_cyc (s : State) (x : Word) (v : Byte) : (s.loadByte x v).cyc = s.cyc := rfl
@[simp] theorem loadByte_bank (s : State) (x : Word) (v : Byte) : (s.loadByte x v).bank = s.bank := rfl
@[simp] theorem loadByte_outside (s : State) (x : Word) (v : Byte) : (s.loadByte x v).outside = s.outside := rfl
@[simp] theorem loadByte_bus (s : State) (x : Word) (v : Byte) : (s.loadByte x v).bus = s.bus := rfl
@[simp] theorem loadByte_par (s : State) (x : Word) (v : Byte) : (s.loadByte x v).par = s.par := rfl
@[simp] theorem loadByte_asm (s : State) (x : Word) (v : Byte) : (s.loadByte x v).asm = s.asm := rfl
@[simp] theorem loadByte_exclMask (s : State) (x : Word) (v : Byte) : (s.loadByte x v).exclMask = s.exclMask := rfl

/-! ### setReg -/

@[simp] theorem setReg_f (s : State) (r : Reg) (v : Byte) : (s.setReg r v).f = s.f := by cases r <;> rfl
@[simp] theorem setReg_sp (s : State) (r : Reg) (v : Byte) : (s.setReg r v).sp = s.sp := by cases r <;> rfl
@[simp] theorem setReg_pc (s : State) (r : Reg) (v : Byte) : (s.setReg r v).pc = s.pc := by cases r <;> rfl
@[simp] theorem setReg_ie (s : State) (r : Reg) (v : Byte) : (s.setReg r v).ie = s.ie := by cases r <;> rfl
@[simp] theorem setReg_dly (s : State) (r : Reg) (v : Byte) : (s.setReg r v).dly = s.dly := by cases r <;> rfl
@[simp] theorem setReg_halted (s : State) (r : Reg) (v : Byte) : (s.setReg r v).halted = s.halted := by cases r <;> rfl
@[simp] theorem setReg_cyc (s : State) (r : Reg) (v : Byte) : (s.setReg r v).cyc = s.cyc := by cases r <;> rfl
@[simp] theorem setReg_mem (s : State) (r : Reg) (v : Byte) : (s.setReg r v).mem = s.mem := by cases r <;> rfl
@[simp] theorem setReg_bank (s : State) (r : Reg) (v : Byte) : (s.setReg r v).bank = s.bank := by cases r <;> rfl
@[simp] theorem setReg_outside (s : State) (r : Reg) (v : Byte) : (s.setReg r v).outside = s.outside := by cases r <;> rfl
@[simp] theorem setReg_bus (s : State) (r : Reg) (v : Byte) : (s.setReg r v).bus = s.bus := by cases r <;> rfl
@[simp] theorem setReg_par (s : State) (r : Reg) (v : Byte) : (s.setReg r v).par = s.par := by cases r <;> rfl
@[simp] theorem setReg_asm (s : State) (r : Reg) (v : Byte) : (s.setReg r v).asm = s.asm := by cases r <;> rfl
@[simp] theorem setReg_exclMask (s : State) (r : Reg) (v : Byte) : (s.setReg r v).exclMask = s.exclMask := by cases r <;> rfl

/-! ### setPair -/

@[simp] theorem setPair_f (s : State) (p : Pair) (v : Word) : (s.setPair p v).f = s.f := by cases p <;> rfl
@[simp] theorem setPair_pc (s : State) (p : Pair) (v : Word) : (s.setPair p v).pc = s.pc := by cases p <;> rfl
@[simp] theorem setPair_ie (s : State) (p : Pair) (v : Word) : (s.setPair p v).ie = s.ie := by cases p <;> rfl
@[simp] theorem setPair_dly (s : State) (p : Pair) (v : Word) : (s.setPair p v).dly = s.dly := by cases p <;> rfl
@[simp] theorem setPair_halted (s : State) (p : Pair) (v : Word) : (s.setPair p v).halted = s.halted := by cases p <;> rfl
@[simp] theorem setPair_cyc (s : State) (p : Pair) (v : Word) : (s.setPair p v).cyc = s.cyc := by cases p <;> rfl
@[simp] theorem setPair_mem (s : State) (p : Pair) (v : Word) : (s.setPair p v).mem = s.mem := by cases p <;> rfl
@[simp] theorem setPair_bank (s : State) (p : Pair) (v : Word) : (s.setPair p v).bank = s.bank := by cases p <;> rfl
@[simp] theorem setPair_outside (s : State) (p : Pair) (v : Word) : (s.setPair p v).outside = s.outside := by cases p <;> rfl
@[simp] theorem setPair_bus (s : State) (p : Pair) (v : Word) : (s.setPair p v).bus = s.bus := by cases p <;> rfl
@[simp] theorem setPair_par (s : State) (p : Pair) (v : Word) : (s.setPair p v).par = s.par := by cases p <;> rfl
@[simp] theorem setPair_asm (s : State) (p : Pair) (v : Word) : (s.setPair p v).asm = s.asm := by cases p <;> rfl
@[simp] theorem setPair_exclMask (s : State) (p : Pair) (v : Word) : (s.setPair p v).exclMask = s.exclMask := by cases p <;> rfl

/-! ### writeF -/

@[simp] theorem writeF_a (s : State) (v : Byte) : (s.writeF v).a = s.a := rfl
@[simp] theorem writeF_b (s : State) (v : Byte) : (s.writeF v).b = s.b := rfl
@[simp] theorem writeF_c (s : State) (v : Byte) : (s.writeF v).c = s.c := rfl
@[simp] theorem writeF_d (s : State) (v : Byte) : (s.writeF v).d = s.d := rfl
@[simp] theorem writeF_e (s : State) (v : Byte) : (s.writeF v).e = s.e := rfl
@[simp] theorem writeF_h (s : State) (v : Byte) : (s.writeF v).h = s.h := rfl
@[simp] theorem writeF_l (s : State) (v : Byte) : (s.writeF v).l = s.l := rfl
@[simp] theorem writeF_sp (s : State) (v : Byte) : (s.writeF v).sp = s.sp := rfl
@[simp] theorem writeF_pc (s : State) (v : Byte) : (s.writeF v).pc = s.pc := rfl
@[simp] theorem writeF_ie (s : State) (v : Byte) : (s.writeF v).ie = s.ie := rfl
@[simp] theorem writeF_dly (s : State) (v : Byte) : (s.writeF v).dly = s.dly := rfl
@[simp] theorem writeF_halted (s : State) (v : Byte) : (s.writeF v).halted = s.halted := rfl
@[simp] theorem writeF_cyc (s : State) (v : Byte) : (s.writeF v).cyc = s.cyc := rfl
@[simp] theorem writeF_mem (s : State) (v : Byte) : (s.writeF v).mem = s.mem := rfl
@[simp] theorem writeF_bank (s : State) (v : Byte) : (s.writeF v).bank = s.bank := rfl
@[simp] theorem writeF_outside (s : State) (v : Byte) : (s.writeF v).outside = s.outside := rfl
@[simp] theorem writeF_bus (s : State) (v : Byte) : (s.writeF v).bus = s.bus := rfl
@[simp] theorem writeF_par (s : State) (v : Byte) : (s.writeF v).par = s.par := rfl
@[simp] theorem writeF_asm (s : State) (v : Byte) : (s.writeF v).asm = s.asm := rfl
@[simp] theorem writeF_exclMask (s : State) (v : Byte) : (s.writeF v).exclMask = s.exclMask := rfl

/-! ### setFlags -/

@[simp] theorem setFlags_a (s : State) (k : List (Flag × Bool)) : (s.setFlags k).a = s.a := rfl
@[simp] theorem setFlags_b (s : State) (k : List (Flag × Bool)) : (s.setFlags k).b = s.b := rfl
@[simp] theorem setFlags_c (s : State) (k : List (Flag × Bool)) : (s.setFlags k).c = s.c := rfl
@[simp] theorem setFlags_d (s : State) (k : List (Flag × Bool)) : (s.setFlags k).d = s.d := rfl
@[simp] theorem setFlags_e (s : State) (k : List (Flag × Bool)) : (s.setFlags k).e = s.e := rfl
@[simp] theorem setFlags_h (s : State) (k : List (Flag × Bool)) : (s.setFlags k).h = s.h := rfl
@[simp] theorem setFlags_l (s : State) (k : List (Flag × Bool)) : (s.setFlags k).l = s.l := rfl
@[simp] theorem setFlags_sp (s : State) (k : List (Flag × Bool)) : (s.setFlags k).sp = s.sp := rfl
@[simp] theorem setFlags_pc (s : State) (k : List (Flag × Bool)) : (s.setFlags k).pc = s.pc := rfl
@[simp] theorem setFlags_ie (s : State) (k : List (Flag × Bool)) : (s.setFlags k).ie = s.ie := rfl
@[simp] theorem setFlags_dly (s : State) (k : List (Flag × Bool)) : (s.setFlags k).dly = s.dly := rfl
@[simp] theorem setFlags_halted (s : State) (k : List (Flag × Bool)) : (s.setFlags k).halted = s.halted := rfl
@[simp] theorem setFlags_cyc (s : State) (k : List (Flag × Bool)) : (s.setFlags k).cyc = s.cyc := rfl
@[simp] theorem setFlags_mem (s : State) (k : List (Flag × Bool)) : (s.setFlags k).mem = s.mem := rfl
@[simp] theorem setFlags_bank (s : State) (k : List (Flag × Bool)) : (s.setFlags k).bank = s.bank := rfl
@[simp] theorem setFlags_outside (s : State) (k : List (Flag × Bool)) : (s.setFlags k).outside = s.outside := rfl
@[simp] theorem setFlags_bus (s : State) (k : List (Flag × Bool)) : (s.setFlags k).bus = s.bus := rfl
@[simp] theorem setFlags_par (s : State) (k : List (Flag × Bool)) : (s.setFlags k).par = s.par := rfl
@[simp] theorem setFlags_asm (s : State) (k : List (Flag × Bool)) : (s.setFlags k).asm = s.asm := rfl
@[simp] theorem setFlags_exclMask (s : State) (k : List (Flag × Bool)) : (s.setFlags k).exclMask = s.exclMask := rfl

/-! ### push16 -/

@[simp] theorem push16_a (s : State) (v : Word) : (s.push16 v).a = s.a := rfl
@[simp] theorem push16_b (s : State) (v : Word) : (s.push16 v).b = s.b := rfl
@[simp] theorem push16_c (s : State) (v : Word) : (s.push16 v).c = s.c := rfl
@[simp] theorem push16_d (s : State) (v : Word) : (s.push16 v).d = s.d := rfl
@[simp] theorem push16_e (s : State) (v : Word) : (s.push16 v).e = s.e := rfl
@[simp] theorem push16_h (s : State) (v : Word) : (s.push16 v).h = s.h := rfl
@[simp] theorem push16_l (s : State) (v : Word) : (s.push16 v).l = s.l := rfl
@[simp] theorem push16_f (s : State) (v : Word) : (s.push16 v).f = s.f := rfl
@[simp] theorem push16_pc (s : State) (v : Word) : (s.push16 v).pc = s.pc := rfl
@[simp] theorem push16_ie (s : State) (v : Word) : (s.push16 v).ie = s.ie := rfl
@[simp] theorem push16_dly (s : State) (v : Word) : (s.push16 v).dly = s.dly := rfl
@[simp] theorem push16_halted (s : State) (v : Word) : (s.push16 v).halted = s.halted := rfl
@[simp] theorem push16_cyc (s : State) (v : Word) : (s.push16 v).cyc = s.cyc := rfl
@[simp] theorem push16_bus (s : State) (v : Word) : (s.push16 v).bus = s.bus := rfl
@[simp] theorem push16_par (s : State) (v : Word) : (s.push16 v).par = s.par := rfl
@[simp] theorem push16_asm (s : State) (v : Word) : (s.push16 v).asm = s.asm := rfl
@[simp] theorem push16_exclMask (s : State) (v : Word) : (s.push16 v).exclMask = s.exclMask := rfl

/-! ### charge -/

@[simp] theorem charge_a (s : State) (n : Nat) : (s.charge n).a = s.a := rfl
@[simp] theorem charge_b (s : State) (n : Nat) : (s.charge n).b = s.b := rfl
@[simp] theorem charge_c (s : State) (n : Nat) : (s.charge n).c = s.c := rfl
@[simp] theorem charge_d (s : State) (n : Nat) : (s.charge n).d = s.d := rfl
@[simp] theorem charge_e (s : State) (n : Nat) : (s.charge n).e = s.e := rfl
@[simp] theorem charge_h (s : State) (n : Nat) : (s.charge n).h = s.h := rfl
@[simp] theorem charge_l (s : State) (n : Nat) : (s.charge n).l = s.l := rfl
@[simp] theorem charge_f (s : State) (n : Nat) : (s.charge n).f = s.f := rfl
@[simp] theorem charge_sp (s : State) (n : Nat) : (s.charge n).sp = s.sp := rfl
@[simp] theorem charge_pc (s : State) (n : Nat) : (s.charge n).pc = s.pc := rfl
@[simp] theorem charge_ie (s : State) (n : Nat) : (s.charge n).ie = s.ie := rfl
@[simp] theorem charge_dly (s : State) (n : Nat) : (s.charge n).dly = s.dly := rfl
@[simp] theorem charge_halted (s : State) (n : Nat) : (s.charge n).halted = s.halted := rfl
@[simp] theorem charge_mem (s : State) (n : Nat) : (s.charge n).mem = s.mem := rfl
@[simp] theorem charge_bank (s : State) (n : Nat) : (s.charge n).bank = s.bank := rfl
@[simp] theorem charge_outside (s : State) (n : Nat) : (s.charge n).outside = s.outside := rfl
@[simp] theorem charge_bus (s : State) (n : Nat) : (s.charge n).bus = s.bus := rfl
@[simp] theorem charge_par (s : State) (n : Nat) : (s.charge n).par = s.par := rfl
@[simp] theorem charge_asm (s : State) (n : Nat) : (s.charge n).asm = s.asm := rfl
@[simp] theorem charge_exclMask (s : State) (n : Nat) : (s.charge n).exclMask = s.exclMask := rfl

/-! ### finish -/

@[simp] theorem finish_a (s : State) (i : Instr) (taken : Bool) : (s.finish i taken).a = s.a := rfl
@[simp] theorem finish_b (s : State) (i : Instr) (taken : Bool) : (s.finish i taken).b = s.b := rfl
@[simp] theorem finish_c (s : State) (i : Instr) (taken : Bool) : (s.finish i taken).c = s.c := rfl
@[simp] theorem finish_d (s : State) (i : Instr) (taken : Bool) : (s.finish i taken).d = s.d := rfl
@[simp] theorem finish_e (s : State) (i : Instr) (taken : Bool) : (s.finish i taken).e = s.e := rfl
@[simp] theorem finish_h (s : State) (i : Instr) (taken : Bool) : (s.finish i taken).h = s.h := rfl
@[simp] theorem finish_l (s : State) (i : Instr) (taken : Bool) : (s.finish i taken).l = s.l := rfl
@[simp] theorem finish_f (s : State) (i : Instr) (taken : Bool) : (s.finish i taken).f = s.f := rfl
@[simp] theorem finish_sp (s : State) (i : Instr) (taken : Bool) : (s.finish i taken).sp = s.sp := rfl
@[simp] theorem finish_pc (s : State) (i : Instr) (taken : Bool) : (s.finish i taken).pc = s.pc := rfl
@[simp] theorem finish_ie (s : State) (i : Instr) (taken : Bool) : (s.finish i taken).ie = s.ie := rfl
@[simp] theorem finish_dly (s : State) (i : Instr) (taken : Bool) : (s.finish i taken).dly = s.dly := rfl
@[simp] theorem finish_halted (s : State) (i : Instr) (taken : Bool) : (s.finish i taken).halted = s.halted := rfl
@[simp] theorem finish_mem (s : State) (i : Instr) (taken : Bool) : (s.finish i taken).mem = s.mem := rfl
@[simp] theorem finish_bank (s : State) (i : Instr) (taken : Bool) : (s.finish i taken).bank = s.bank := rfl
@[simp] theorem finish_outside (s : State) (i : Instr) (taken : Bool) : (s.finish i taken).outside = s.outside := rfl
@[simp] theorem finish_bus (s : State) (i : Instr) (taken : Bool) : (s.finish i taken).bus = s.bus := rfl
@[simp] theorem finish_par (s : State) (i : Instr) (taken : Bool) : (s.finish i taken).par = s.par := rfl
@[simp] theorem finish_asm (s : State) (i : Instr) (taken : Bool) : (s.finish i taken).asm = s.asm := rfl
@[simp] theorem finish_exclMask (s : State) (i : Instr) (taken : Bool) : (s.finish i taken).exclMask = s.exclMask := rfl

/-! ### next -/

@[simp] theorem next_a (s : State) (i : Instr) : (s.next i).a = s.a := rfl
@[simp] theorem next_b (s : State) (i : Instr) : (s.next i).b = s.b := rfl
@[simp] theorem next_c (s : State) (i : Instr) : (s.next i).c = s.c := rfl
@[simp] theorem next_d (s : State) (i : Instr) : (s.next i).d = s.d := rfl
@[simp] theorem next_e (s : State) (i : Instr) : (s.next i).e = s.e := rfl
@[simp] theorem next_h (s : State) (i : Instr) : (s.next i).h = s.h := rfl
@[simp] theorem next_l (s : State) (i : Instr) : (s.next i).l = s.l := rfl
@[simp] theorem next_f (s : State) (i : Instr) : (s.next i).f = s.f := rfl
@[simp] theorem next_sp (s : State) (i : Instr) : (s.next i).sp = s.sp := rfl
@[simp] theorem next_ie (s : State) (i : Instr) : (s.next i).ie = s.ie := rfl
@[simp] theorem next_dly (s : State) (i : Instr) : (s.next i).dly = s.dly := rfl
@[simp] theorem next_halted (s : State) (i : Instr) : (s.next i).halted = s.halted := rfl
@[simp] theorem next_mem (s : State) (i : Instr) : (s.next i).mem = s.mem := rfl
@[simp] theorem next_bank (s : State) (i : Instr) : (s.next i).bank = s.bank := rfl
@[simp] theorem next_outside (s : State) (i : Instr) : (s.next i).outside = s.outside := rfl
@[simp] theorem next_bus (s : State) (i : Instr) : (s.next i).bus = s.bus := rfl
@[simp] theorem next_par (s : State) (i : Instr) : (s.next i).par = s.par := rfl
@[simp] theorem next_asm (s : State) (i : Instr) : (s.next i).asm = s.asm := rfl
@[simp] theorem next_exclMask (s : State) (i : Instr) : (s.next i).exclMask = s.exclMask := rfl

/-! ### acknowledge -/

@[simp] theorem acknowledge_a (s : State) : (s.acknowledge).a = s.a := rfl
@[simp] theorem acknowledge_b (s : State) : (s.acknowledge).b = s.b := rfl
@[simp] theorem acknowledge_c (s : State) : (s.acknowledge).c = s.c := rfl
@[simp] theorem acknowledge_d (s : State) : (s.acknowledge).d = s.d := rfl
@[simp] theorem acknowledge_e (s : State) : (s.acknowledge).e = s.e := rfl
@[simp] theorem acknowledge_h (s : State) : (s.acknowledge).h = s.h := rfl
@[simp] theorem acknowledge_l (s : State) : (s.acknowledge).l = s.l := rfl
@[simp] theorem acknowledge_f (s : State) : (s.acknowledge).f = s.f := rfl
@[simp] theorem acknowledge_sp (s : State) : (s.acknowledge).sp = s.sp := rfl
@[simp] theorem acknowledge_dly (s : State) : (s.acknowledge).dly = s.dly := rfl
@[simp] theorem acknowledge_cyc (s : State) : (s.acknowledge).cyc = s.cyc := rfl
@[simp] theorem acknowledge_mem (s : State) : (s.acknowledge).mem = s.mem := rfl
@[simp] theorem acknowledge_bank (s : State) : (s.acknowledge).bank = s.bank := rfl
@[simp] theorem acknowledge_outside (s : State) : (s.acknowledge).outside = s.outside := rfl
@[simp] theorem acknowledge_par (s : State) : (s.acknowledge).par = s.par := rfl
@[simp] theorem acknowledge_asm (s : State) : (s.acknowledge).asm = s.asm := rfl
@[simp] theorem acknowledge_exclMask (s : State) : (s.acknowledge).exclMask = s.exclMask := rfl

/-! ### restartDispatch -/

@[simp] theorem restartDispatch_a (s : State) : (s.restartDispatch).a = s.a := rfl
@[simp] theorem restartDispatch_b (s : State) : (s.restartDispatch).b = s.b := rfl
@[simp] theorem restartDispatch_c (s : State) : (s.restartDispatch).c = s.c := rfl
@[simp] theorem restartDispatch_d (s : State) : (s.restartDispatch).d = s.d := rfl
@[simp] theorem restartDispatch_e (s : State) : (s.restartDispatch).e = s.e := rfl
@[simp] theorem restartDispatch_h (s : State) : (s.restartDispatch).h = s.h := rfl
@[simp] theorem restartDispatch_l (s : State) : (s.restartDispatch).l = s.l := rfl
@[simp] theorem restartDispatch_f (s : State) : (s.restartDispatch).f = s.f := rfl
@[simp] theorem restartDispatch_sp (s : State) : (s.restartDispatch).sp = s.sp := rfl
@[simp] theorem restartDispatch_ie (s : State) : (s.restartDispatch).ie = s.ie := rfl
@[simp] theorem restartDispatch_dly (s : State) : (s.restartDispatch).dly = s.dly := rfl
@[simp] theorem restartDispatch_halted (s : State) : (s.restartDispatch).halted = s.halted := rfl
@[simp] theorem restartDispatch_cyc (s : State) : (s.restartDispatch).cyc = s.cyc := rfl
@[simp] theorem restartDispatch_mem (s : State) : (s.restartDispatch).mem = s.mem := rfl
@[simp] theorem restartDispatch_bank (s : State) : (s.restartDispatch).bank = s.bank := rfl
@[simp] theorem restartDispatch_outside (s : State) : (s.restartDispatch).outside = s.outside := rfl
@[simp] theorem restartDispatch_bus (s : State) : (s.restartDispatch).bus = s.bus := rfl
@[simp] theorem restartDispatch_par (s : State) : (s.restartDispatch).par = s.par := rfl
@[simp] theorem restartDispatch_asm (s : State) : (s.restartDispatch).asm = s.asm := rfl
@[simp] theorem restartDispatch_exclMask (s : State) : (s.restartDispatch).exclMask = s.exclMask := rfl

/-! ### callDispatch -/

@[simp] theorem callDispatch_a (s : State) : (s.callDispatch).a = s.a := rfl
@[simp] theorem callDispatch_b (s : State) : (s.callDispatch).b = s.b := rfl
@[simp] theorem callDispatch_c (s : State) : (s.callDispatch).c = s.c := rfl
@[simp] theorem callDispatch_d (s : State) : (s.callDispatch).d = s.d := rfl
@[simp] theorem callDispatch_e (s : State) : (s.callDispatch).e = s.e := rfl
@[simp] theorem callDispatch_h (s : State) : (s.callDispatch).h = s.h := rfl
@[simp] theorem callDispatch_l (s : State) : (s.callDispatch).l = s.l := rfl
@[simp] theorem callDispatch_f (s : State) : (s.callDispatch).f = s.f := rfl
@[simp] theorem callDispatch_ie (s : State) : (s.callDispatch).ie = s.ie := rfl
@[simp] theorem callDispatch_dly (s : State) : (s.callDispatch).dly = s.dly := rfl
@[simp] theorem callDispatch_halted (s : State) : (s.callDispatch).halted = s.halted := rfl
@[simp] theorem callDispatch_cyc (s : State) : (s.callDispatch).cyc = s.cyc := rfl
@[simp] theorem callDispatch_bus (s : State) : (s.callDispatch).bus = s.bus := rfl
@[simp] theorem callDispatch_par (s : State) : (s.callDispatch).par = s.par := rfl
@[simp] theorem callDispatch_asm (s : State) : (s.callDispatch).asm = s.asm := rfl
@[simp] theorem callDispatch_exclMask (s : State) : (s.callDispatch).exclMask = s.exclMask := rfl

/-! ### What an update writes -/

@[simp] theorem setByte_mem (s : State) (x : Word) (v : Byte) :
    (s.setByte x v).mem = storeVia (s.memKind x) s.mem x v := rfl
@[simp] theorem setByte_bank (s : State) (x : Word) (v : Byte) :
    (s.setByte x v).bank = bankVia (s.memKind x) s.bank v := rfl
@[simp] theorem setByte_outside (s : State) (x : Word) (v : Byte) :
    (s.setByte x v).outside = outsideVia (s.memKind x) s.outside x v := rfl
@[simp] theorem loadByte_mem (s : State) (x : Word) (v : Byte) :
    (s.loadByte x v).mem = loadVia (s.memKind x) s.mem x v := rfl
@[simp] theorem writeF_f (s : State) (v : Byte) : (s.writeF v).f = fixF s.par v := rfl
@[simp] theorem setFlags_f (s : State) (k : List (Flag × Bool)) : (s.setFlags k).f = fixF s.par (putFlags s.f k) := rfl
@[simp] theorem push16_sp (s : State) (v : Word) : (s.push16 v).sp = s.sp - 1 - 1 := rfl
@[simp] theorem charge_cyc (s : State) (n : Nat) : (s.charge n).cyc = s.cyc + n + s.cyc % 2 := rfl
@[simp] theorem finish_cyc (s : State) (i : Instr) (taken : Bool) :
    (s.finish i taken).cyc = s.cyc + baseCost s.par i taken + s.cyc % 2 := rfl
@[simp] theorem next_cyc (s : State) (i : Instr) : (s.next i).cyc = s.cyc + baseCost s.par i true + s.cyc % 2 := rfl
@[simp] theorem next_pc (s : State) (i : Instr) : (s.next i).pc = s.pc + BitVec.ofNat 16 i.length := rfl
@[simp] theorem acknowledge_ie (s : State) : s.acknowledge.ie = false := rfl
@[simp] theorem acknowledge_halted (s : State) : s.acknowledge.halted = false := rfl
@[simp] theorem acknowledge_pc (s : State) : s.acknowledge.pc = if s.halted then s.pc + 1 else s.pc := rfl
@[simp] theorem acknowledge_intReq (s : State) : s.acknowledge.bus.intReq = false := rfl
@[simp] theorem acknowledge_intVec (s : State) : s.acknowledge.bus.intVec = s.bus.intVec := rfl
@[simp] theorem restartDispatch_pc (s : State) : s.restartDispatch.pc = rstTarget s.par s.bus.intVec := rfl
@[simp] theorem callDispatch_pc (s : State) : s.callDispatch.pc = s.bus.intVec := rfl
@[simp] theorem callDispatch_sp (s : State) : s.callDispatch.sp = s.sp - 1 - 1 := rfl
@[simp] theorem callDispatch_mem (s : State) : s.callDispatch.mem = (s.push16 s.pc).mem := rfl
@[simp] theorem callDispatch_bank (s : State) : s.callDispatch.bank = (s.push16 s.pc).bank := rfl
@[simp] theorem callDispatch_outside (s : State) : s.callDispatch.outside = (s.push16 s.pc).outside := rfl

/-! ### Registers read back -/

@[simp] theorem reg_setReg_same (s : State) (r : Reg) (v : Byte) : (s.setReg r v).reg r = v := by cases r <;> rfl

@[simp] theorem reg_setReg_other (s : State) (r q : Reg) (v : Byte) (h : q ≠ r) : (s.setReg r v).reg q = s.reg q := by
  cases r <;> cases q <;> first | rfl | exact absurd rfl h

@[simp] theorem setReg_sp_reg (s : State) (p : Pair) (v : Word) (r : Reg) (h : p = .sp) :
    (s.setPair p v).reg r = s.reg r := by subst h; cases r <;> rfl

@[simp] theorem setByte_reg (s : State) (x : Word) (v : Byte) (r : Reg) : (s.setByte x v).reg r = s.reg r := by
  cases r <;> rfl
@[simp] theorem setFlags_reg (s : State) (k : List (Flag × Bool)) (r : Reg) : (s.setFlags k).reg r = s.reg r := by
  cases r <;> rfl
@[simp] theorem push16_reg (s : State) (v : Word) (r : Reg) : (s.push16 v).reg r = s.reg r := by cases r <;> rfl
@[simp] theorem finish_reg (s : State) (i : Instr) (taken : Bool) (r : Reg) : (s.finish i taken).reg r = s.reg r := by
  cases r <;> rfl
@[simp] theorem next_reg (s : State) (i : Instr) (r : Reg) : (s.next i).reg r = s.reg r := by cases r <;> rfl

/-! ### Bytes and flags read back -/

@[simp] theorem setReg_getByte (s : State) (r : Reg) (v : Byte) (x : Word) : (s.setReg r v).getByte x = s.getByte x := by
  cases r <;> rfl
@[simp] theorem setPair_getByte (s : State) (p : Pair) (v x : Word) : (s.setPair p v).getByte x = s.getByte x := by
  cases p <;> rfl
@[simp] theorem setFlags_getByte (s : State) (k : List (Flag × Bool)) (x : Word) :
    (s.setFlags k).getByte x = s.getByte x := rfl
@[simp] theorem writeF_getByte (s : State) (v : Byte) (x : Word) : (s.writeF v).getByte x = s.getByte x := rfl
@[simp] theorem charge_getByte (s : State) (n : Nat) (x : Word) : (s.charge n).getByte x = s.getByte x := rfl
@[simp] theorem finish_getByte (s : State) (i : Instr) (taken : Bool) (x : Word) :
    (s.finish i taken).getByte x = s.getByte x := rfl
@[simp] theorem next_getByte (s : State) (i : Instr) (x : Word) : (s.next i).getByte x = s.getByte x := rfl
@[simp] theorem finish_flag (s : State) (i : Instr) (taken : Bool) (k : Flag) : (s.finish i taken).flag k = s.flag k := rfl
@[simp] theorem next_flag (s : State) (i : Instr) (k : Flag) : (s.next i).flag k = s.flag k := rfl
@[simp] theorem setByte_flag (s : State) (x : Word) (v : Byte) (k : Flag) : (s.setByte x v).flag k = s.flag k := rfl

/-! ### Pairs and their halves (R102) -/

theorem getLsbD_join (x y : Byte) (i : Nat) : (join x y).getLsbD i = if i < 8 then y.getLsbD i else x.getLsbD (i - 8) :=
  (BitVec.getLsbD_append (x := x) (y := y)).trans (by by_cases h : i < 8 <;> simp [h])

@[simp] theorem hiByte_join (x y : Byte) : hiByte (join x y) = x := by
  apply BitVec.eq_of_getLsbD_eq
  intro i hi
  simp [hiByte, getLsbD_join, hi]

@[simp] theorem loByte_join (x y : Byte) : loByte (join x y) = y := by
  apply BitVec.eq_of_getLsbD_eq
  intro i hi
  simp [loByte, getLsbD_join, hi]

@[simp] theorem join_hi_lo (w : Word) : join (hiByte w) (loByte w) = w := by
  apply BitVec.eq_of_getLsbD_eq
  intro i hi
  rw [getLsbD_join]
  split
  · rename_i h; simp [loByte, h]
  · rename_i h
    have : i - 8 < 8 := by omega
    simp [hiByte, this, show 8 + (i - 8) = i from by omega]

@[simp] theorem pair_setPair_same (s : State) (p : Pair) (v : Word) : (s.setPair p v).pair p = v := by
  cases p <;> simp [State.setPair, State.pair]

theorem pair_setPair_other (s : State) (p q : Pair) (v : Word) (h : q ≠ p) : (s.setPair p v).pair q = s.pair q := by
  cases p <;> cases q <;> first | rfl | exact absurd rfl h

end Sys2Proof.Machine
end

