-- ==== Sys2Proof/Laws/Flags.lean ====
section
/-! SUPPORT. The flag byte bit by bit: what `putFlags` and the fixed-bit masks do to each bit, and parity as a count. -/

namespace Sys2Proof.Machine

/-- The two masks applied to one bit: what a flag reads as after a write of `v` (R108). -/
theorem getLsbD_fixF (par : Params) (v : Byte) (i : Nat) :
    (fixF par v).getLsbD i = ((v.getLsbD i && par.flagAnd.getLsbD i) || par.flagOr.getLsbD i) := by
  simp [fixF]

/-- Applying the masks twice is applying them once. -/
@[simp] theorem fixF_fixF (par : Params) (v : Byte) : fixF par (fixF par v) = fixF par v := by
  apply BitVec.eq_of_getLsbD_eq
  intro i _
  simp only [getLsbD_fixF]
  cases v.getLsbD i <;> cases par.flagAnd.getLsbD i <;> cases par.flagOr.getLsbD i <;> rfl

/-- A replaced bit, and every other bit as it was. -/
theorem getLsbD_putBit (v : Byte) (j i : Nat) (x : Bool) (hi : i < 8) :
    (putBit v j x).getLsbD i = if i = j then x else v.getLsbD i := by
  have hbit : ((1#8) <<< j).getLsbD i = decide (i = j) := by
    rw [BitVec.getLsbD_shiftLeft]
    by_cases h : i = j
    · subst h; simp [hi]
    · by_cases h' : i < j
      · simp [h', h]
      · have : i - j ≠ 0 := by omega
        simp [h, h', BitVec.getLsbD_one, this]
  unfold putBit
  cases x
  · rw [if_neg Bool.false_ne_true, BitVec.getLsbD_and, BitVec.getLsbD_not, hbit]
    by_cases h : i = j <;> simp [h, hi]
  · rw [if_pos rfl, BitVec.getLsbD_or, hbit]
    by_cases h : i = j <;> simp [h]

/-- A bit of the flag byte that none of the named flags holds is as it was. -/
theorem getLsbD_putFlags_other (v : Byte) (ks : List (Flag × Bool)) (i : Nat) (hi : i < 8)
    (h : ∀ k ∈ ks, i ≠ k.1.bit) : (putFlags v ks).getLsbD i = v.getLsbD i := by
  induction ks generalizing v with
  | nil => rfl
  | cons k ks ih =>
    obtain ⟨k, x⟩ := k
    rw [putFlags, ih _ fun k' hk' => h k' (List.mem_cons_of_mem _ hk'), getLsbD_putBit _ _ _ _ hi,
      if_neg (h (k, x) (List.mem_cons_self ..))]

/-- A flag's bit is inside the byte. -/
theorem Flag.bit_lt (k : Flag) : k.bit < 8 := by cases k <;> decide

/-- Two flags with one bit are one flag. -/
theorem Flag.bit_inj {k k' : Flag} (h : k.bit = k'.bit) : k = k' := by
  cases k <;> cases k' <;> first | rfl | exact absurd h (by decide)

/-- The last value named for a flag, or what it held. -/
def lastFor (k : Flag) (old : Bool) : List (Flag × Bool) → Bool
  | [] => old
  | (k', x) :: rest => lastFor k (if k = k' then x else old) rest

/-- A flag after `putFlags`. -/
theorem getLsbD_putFlags (v : Byte) (ks : List (Flag × Bool)) (k : Flag) :
    (putFlags v ks).getLsbD k.bit = lastFor k (v.getLsbD k.bit) ks := by
  induction ks generalizing v with
  | nil => rfl
  | cons x ks ih =>
    obtain ⟨k', x⟩ := x
    rw [putFlags, ih, lastFor, getLsbD_putBit _ _ _ _ k.bit_lt]
    congr 1
    by_cases h : k = k'
    · subst h; simp
    · rw [if_neg h, if_neg fun e => h (Flag.bit_inj e)]

/-- A flag after `setFlags` (R108, R109). -/
theorem flag_setFlags (s : State) (ks : List (Flag × Bool)) (k : Flag) :
    (s.setFlags ks).flag k =
      ((lastFor k (s.flag k) ks && s.par.flagAnd.getLsbD k.bit) || s.par.flagOr.getLsbD k.bit) := by
  simp [State.flag, getLsbD_fixF, getLsbD_putFlags]

/-- A bit of F that none of the named flags holds keeps its value when F already had its fixed bits (R108, R109). -/
theorem bit_setFlags_other (s : State) (ks : List (Flag × Bool)) (i : Nat) (hi : i < 8) (hF : fixF s.par s.f = s.f)
    (h : ∀ k ∈ ks, i ≠ k.1.bit) : (s.setFlags ks).f.getLsbD i = s.f.getLsbD i := by
  conv_rhs => rw [← hF]
  simp only [setFlags_f, getLsbD_fixF, getLsbD_putFlags_other _ _ _ hi h]

/-- The bits named by `setSZP`. -/
@[simp] theorem szp_eq (x : Byte) : szp x = [(.s, x.getLsbD 7), (.z, x == 0x00#8), (.p, parity x)] := rfl

/-- Parity is 1 exactly when the number of 1 bits is even (R110). -/
theorem parity_eq_count (x : Byte) : parity x = decide ((List.range 8).countP (fun i => x.getLsbD i) % 2 = 0) := by
  revert x; decide

/-- Every flag-writing update leaves F with its fixed bits (R108). -/
theorem fixed_setFlags (s : State) (ks : List (Flag × Bool)) :
    fixF (s.setFlags ks).par (s.setFlags ks).f = (s.setFlags ks).f := by simp

end Sys2Proof.Machine
end

