-- ==== Sys2Proof/Laws/Alu.lean ====
section
/-! SUPPORT. What the flag-writing operations leave, in the words of Sys2Proof/Safety.lean. -/

namespace Sys2Proof.Machine

/-- A flag after a flag write: the last value named for it, through the fixed-bit masks. -/
theorem flagIs_setFlags (s t : State) (ks : List (Flag × Bool)) (k : Flag) (v : Bool) (hf : t.f = (s.setFlags ks).f)
    (hl : lastFor k (s.flag k) ks = v) : FlagIs s t k v := by
  have h := flag_setFlags s ks k
  unfold FlagIs
  rw [show t.flag k = (s.setFlags ks).flag k by simp [State.flag, hf], h, hl]

/-- S, Z and P after a flag write that names them by `setSZP` (R111). -/
theorem szpTell_setFlags (s t : State) (x : Byte) (ks : List (Flag × Bool)) (hf : t.f = (s.setFlags ks).f)
    (hs : lastFor .s (s.flag .s) ks = x.getLsbD 7) (hz : lastFor .z (s.flag .z) ks = (x == 0#8))
    (hp : lastFor .p (s.flag .p) ks = parity x) : SzpTell s t x := by
  refine ⟨flagIs_setFlags s t ks _ _ hf (hs.trans ?_), flagIs_setFlags s t ks _ _ hf (hz.trans ?_),
    flagIs_setFlags s t ks _ _ hf (hp.trans (parity_eq_count x))⟩
  · clear hs hz hp
    revert x
    decide
  · clear hs hz hp
    revert x
    decide

/-- An accumulator operation writes A, F, PC and CYC and nothing else. -/
theorem aluToA_frame (s : State) (i : Instr) (r : Alu) (hF : FixedBits s) :
    AccumulatorFrame s (aluToA i r s) i i.length := by
  refine ⟨?_, rfl, ?_, ⟨⟨rfl, rfl, rfl⟩, fun _ _ => rfl⟩, ⟨rfl, rfl, rfl, rfl, rfl, rfl, rfl⟩, rfl, rfl⟩
  · intro q hq
    cases q <;> first | rfl | simp at hq
  · intro j hj h
    refine bit_setFlags_other { s with a := r.val } r.flags j hj hF ?_
    intro k _
    apply h
    cases k.1 <;> simp

end Sys2Proof.Machine
end

