-- ==== Sys2Proof/Laws/Bus.lean ====
section
/-! SUPPORT. What a drain, a notification, a port access or a reset can do to the bus, said once: a property that the
primitive updates keep is kept by all of them. -/

namespace Sys2Proof.Machine

/-- A property of the bus that every primitive update keeps. -/
structure BusClosed (P : Bus → Prop) : Prop where
  setLevel : ∀ bus p v, P bus → P (bus.setLevel p v)
  setFields : ∀ bus dev fields, P bus → P (bus.setFields dev fields)
  addEvent : ∀ bus dev t x, P bus → P (bus.addEvent dev t x)
  removeAllEvents : ∀ bus dev, P bus → P (bus.removeAllEvents dev)
  dropEvent : ∀ (bus : Bus) (n : Nat), P bus → P { bus with events := bus.events.filter fun x => x.seq ≠ n }
  record : ∀ bus c, P bus → P (bus.record c)
  requestInterrupt : ∀ bus v, P bus → P (bus.requestInterrupt v)
  withdrawInterrupt : ∀ bus, P bus → P bus.withdrawInterrupt
  requestReset : ∀ bus, P bus → P bus.requestReset
  useFree : ∀ (bus : Bus) (n : Nat), P bus → P { bus with frees := n }

variable {P : Bus → Prop}

/-- A property each turn keeps is kept by the whole loop. -/
theorem seqM_keeps {α : Type} {act : α → Bus → Option Bus} (keep : ∀ x bus bus', act x bus = some bus' → P bus → P bus')
    (xs : List α) (bus bus' : Bus) (h : seqM act xs bus = some bus') (hp : P bus) : P bus' := by
  induction xs generalizing bus with
  | nil => cases h; exact hp
  | cons x xs ih =>
    simp only [seqM] at h
    cases hx : act x bus with
    | none => rw [hx] at h; cases h
    | some b => rw [hx] at h; exact ih b h (keep x bus b hx hp)

/-- `drive` keeps what its notifications and the stored level keep. -/
theorem driveWith_keeps (hc : BusClosed P) {notify : PinId → Bus → Option Bus}
    (keep : ∀ q bus bus', notify q bus = some bus' → P bus → P bus')
    (asm : Assembly) (p : PinId) (v : Bool) (bus bus' : Bus) (h : driveWith notify asm p v bus = some bus') (hp : P bus) :
    P bus' := by
  unfold driveWith at h
  split at h
  · cases h; exact hp
  · simp only at h
    split at h
    · cases h; exact hc.setLevel _ _ _ hp
    · split at h
      · cases h; exact hc.setLevel _ _ _ hp
      · exact seqM_keeps keep _ _ _ h (hc.setLevel _ _ _ hp)

/-- A platform device's action keeps what notifications and primitive updates keep. -/
theorem runAction_keeps (hc : BusClosed P) {notify : PinId → Bus → Option Bus}
    (keep : ∀ q bus bus', notify q bus = some bus' → P bus → P bus')
    (asm : Assembly) (now : Int) (dev : Nat) (act : Action) (bus bus' : Bus)
    (h : runAction notify asm now dev act bus = some bus') (hp : P bus) : P bus' := by
  cases act <;> simp only [runAction] at h
  case drive => exact driveWith_keeps hc keep _ _ _ _ _ h hp
  case addEvent => cases h; exact hc.addEvent _ _ _ _ hp
  case addEventAt => cases h; exact hc.addEvent _ _ _ _ hp
  case removeAllEvents => cases h; exact hc.removeAllEvents _ _ hp
  case requestInterrupt => cases h; exact hc.requestInterrupt _ _ hp
  case withdrawInterrupt => cases h; exact hc.withdrawInterrupt _ hp
  case requestReset => cases h; exact hc.requestReset _ hp
  case display =>
    cases h
    unfold showAt
    split
    · exact hc.setFields _ _ _ hp
    · exact hp
  case activate k =>
    unfold activateWith at h
    split at h
    · split at h
      · cases h
      · rename_i b hb
        cases h
        exact hc.addEvent _ _ _ _ (hc.removeAllEvents _ _ (driveWith_keeps hc keep _ _ _ _ _ hb hp))
    · cases h; exact hp
  case deactivate k =>
    unfold deactivateWith at h
    split at h
    · exact driveWith_keeps hc keep _ _ _ _ _ h (hc.removeAllEvents _ _ hp)
    · cases h; exact hp

/-- A platform device's actions keep it, one after the other. -/
theorem runActions_keeps (hc : BusClosed P) {notify : PinId → Bus → Option Bus}
    (keep : ∀ q bus bus', notify q bus = some bus' → P bus → P bus')
    (asm : Assembly) (now : Int) (dev : Nat) (acts : List Action) (bus bus' : Bus)
    (h : runActions notify asm now dev acts bus = some bus') (hp : P bus) : P bus' :=
  seqM_keeps (fun _ _ _ hx hb => runAction_keeps hc keep _ _ _ _ _ _ hx hb) _ _ _ h hp

/-- A notification keeps it, whatever the depth. -/
theorem notifyUpTo_keeps (hc : BusClosed P) (asm : Assembly) (now : Int) (depth : Nat) (q : PinId) (bus bus' : Bus)
    (h : notifyUpTo asm now depth q bus = some bus') (hp : P bus) : P bus' := by
  induction depth generalizing q bus bus' with
  | zero => cases h
  | succ depth ih =>
    have keep : ∀ q bus bus', notifyUpTo asm now depth q bus = some bus' → P bus → P bus' :=
      fun q b b' hb hb' => ih q b b' hb hb'
    simp only [notifyUpTo, handleNotify] at h
    split at h
    · split at h
      · cases h
        unfold decoderNotified
        split
        · split
          · exact hp
          · exact hc.addEvent _ _ _ _ hp
        · exact hp
      · cases h; exact hp
    · split at h
      · exact driveWith_keeps hc keep _ _ _ _ _ h (hc.setFields _ _ _ hp)
      · cases h; exact hp
    · exact runActions_keeps hc keep _ _ _ _ _ _ h (hc.record _ _ hp)
    · cases h; exact hp

/-- `notifyChange` keeps it. -/
theorem notifyChange_keeps (hc : BusClosed P) (asm : Assembly) (now : Int) (q : PinId) (bus bus' : Bus)
    (h : notifyChange asm now q bus = some bus') (hp : P bus) : P bus' :=
  notifyUpTo_keeps hc asm now _ q bus bus' h hp

/-- `drive` keeps it. -/
theorem drive_keeps (hc : BusClosed P) (asm : Assembly) (now : Int) (p : PinId) (v : Bool) (bus bus' : Bus)
    (h : drive asm now p v bus = some bus') (hp : P bus) : P bus' :=
  driveWith_keeps hc (fun q b b' => notifyChange_keeps hc asm now q b b') asm p v bus bus' h hp

/-- Firing an event keeps it. -/
theorem fire_keeps (hc : BusClosed P) (asm : Assembly) (now : Int) (dev : Nat) (x : Int) (bus bus' : Bus)
    (h : fire asm now dev x bus = some bus') (hp : P bus) : P bus' := by
  unfold fire at h
  split at h
  · unfold dividerFire at h
    split at h
    · cases h
    · rename_i b hb
      cases h
      exact hc.addEvent _ _ _ _ (hc.removeAllEvents _ _ (drive_keeps hc _ _ _ _ _ _ hb (hc.setFields _ _ _ hp)))
  · unfold decoderFire at h
    simp only at h
    split at h
    · split at h <;> (cases h; exact hc.setFields _ _ _ hp)
    · split at h
      · cases h
      · rename_i b hb
        exact drive_keeps hc _ _ _ _ _ _ h (drive_keeps hc _ _ _ _ _ _ hb (hc.setFields _ _ _ hp))
  · exact drive_keeps hc _ _ _ _ _ _ h hp
  · exact runActions_keeps hc (fun q b b' => notifyChange_keeps hc asm now q b b') _ _ _ _ _ _ h (hc.record _ _ hp)
  · cases h; exact hp

/-- A drain keeps it (R933). -/
theorem runSchedule_keeps (hc : BusClosed P) (asm : Assembly) (now : Int) (bus bus' : Bus)
    (h : runSchedule asm now bus = some bus') (hp : P bus) : P bus' := by
  refine seqM_keeps (fun e b b' hb hp' => ?_) _ _ _ h hp
  unfold fireIfPending at hb
  split at hb
  · exact fire_keeps hc _ _ _ _ _ _ hb (hc.dropEvent _ _ hp')
  · cases hb; exact hp'

/-- A port read keeps it (R220). -/
theorem ioRead_keeps (hc : BusClosed P) (asm : Assembly) (now : Int) (port : Byte) (bus bus' : Bus) (v : Byte)
    (h : ioRead asm now port bus = some (v, bus')) (hp : P bus) : P bus' := by
  have one : ∀ dev b v b', deviceInput asm now dev port b = some (v, b') → P b → P b' := by
    intro dev b v b' hd hb
    have hcon : P (contribution asm dev port (b.record (.input dev port))).2 := by
      have hr := hc.record b (.input dev port) hb
      unfold contribution
      simp only
      split
      · split
        · exact hr
        · exact hc.useFree _ _ hr
      · exact hc.useFree _ _ hr
    unfold deviceInput at hd
    simp only at hd
    split at hd
    · rw [Option.map_eq_some_iff] at hd
      obtain ⟨c, hrun, he⟩ := hd
      cases he
      exact runActions_keeps hc (fun q x x' => notifyChange_keeps hc asm now q x x') _ _ _ _ _ _ hrun hcon
    · cases hd; exact hcon
  have all : ∀ (devs : List Nat) acc b v b', andInputs asm now port devs acc b = some (v, b') → P b → P b' := by
    intro devs
    induction devs with
    | nil => intro acc b v b' hd hb; cases hd; exact hb
    | cons dev devs ih =>
      intro acc b v b' hd hb
      simp only [andInputs] at hd
      split at hd
      · cases hd
      · rename_i w c hw
        exact ih _ _ _ _ hd (one _ _ _ _ hw hb)
  exact all _ _ _ _ _ h hp

/-- A port write keeps it (R221). -/
theorem ioWrite_keeps (hc : BusClosed P) (asm : Assembly) (now : Int) (port v : Byte) (bus bus' : Bus)
    (h : ioWrite asm now port v bus = some bus') (hp : P bus) : P bus' := by
  refine seqM_keeps (fun dev b b' hb hp' => ?_) _ _ _ h hp
  unfold deviceOutput at hb
  simp only at hb
  split at hb
  · exact runActions_keeps hc (fun q x x' => notifyChange_keeps hc asm now q x x') _ _ _ _ _ _ hb
      (hc.setFields _ _ _ (hc.record _ _ hp'))
  · cases hb; exact hc.record _ _ hp'

/-- A device's reset hook keeps it. -/
theorem resetHook_keeps (hc : BusClosed P) (asm : Assembly) (now : Int) (dev : Nat) (bus bus' : Bus)
    (h : resetHook asm now dev bus = some bus') (hp : P bus) : P bus' := by
  unfold resetHook at h
  split at h
  · split at h
    · cases h
    · rename_i b hb
      cases h
      exact hc.addEvent _ _ _ _ (hc.removeAllEvents _ _ (drive_keeps hc _ _ _ _ _ _ hb (hc.setFields _ _ _ hp)))
  · simp only at h
    split at h
    · cases h
    · rename_i b hb
      exact drive_keeps hc _ _ _ _ _ _ h
        (drive_keeps hc _ _ _ _ _ _ hb (hc.removeAllEvents _ _ (hc.setFields _ _ _ hp)))
  · exact drive_keeps hc _ _ _ _ _ _ h (hc.setFields _ _ _ hp)
  · exact drive_keeps hc _ _ _ _ _ _ h (hc.removeAllEvents _ _ (hc.setFields _ _ _ hp))
  · exact runActions_keeps hc (fun q b b' => notifyChange_keeps hc asm now q b b') _ _ _ _ _ _ h (hc.setFields _ _ _ hp)
  · cases h; exact hp

/-- The device part of a reset keeps it, once it holds of the cleared bus (R1001 steps 5 and 6). -/
theorem resetDevices_keeps (hc : BusClosed P) (asm : Assembly) (bus mid bus' : Bus)
    (h5 : resetHooks asm bus = some mid) (h6 : resetSweep asm mid = some bus') (hp : P bus) : P bus' :=
  seqM_keeps (fun q b b' => notifyChange_keeps hc asm 0 q b b') _ _ _ h6
    (seqM_keeps (fun dev b b' => resetHook_keeps hc asm 0 dev b b') _ _ _ h5 hp)

end Sys2Proof.Machine
end

