-- ==== Sys2Proof/Laws/Frees.lean ====
section
/-! SUPPORT. The devices, their notifications and their reset hooks neither read nor write the count of free port values,
so that what a reset leaves does not depend on it. -/

namespace Sys2Proof.Machine

/-- The bus with another count of free port values used. -/
def Bus.withFrees (bus : Bus) (n : Nat) : Bus := { bus with frees := n }

/-- An operation that neither reads nor writes the count. -/
def BlindToFrees (act : Bus → Option Bus) : Prop :=
  ∀ (bus : Bus) (n : Nat), act (bus.withFrees n) = (act bus).map (·.withFrees n)

/-- A loop of blind turns is blind. -/
theorem seqM_blind {α : Type} {act : α → Bus → Option Bus} (h : ∀ x, BlindToFrees (act x)) (xs : List α) :
    BlindToFrees (seqM act xs) := by
  intro bus n
  induction xs generalizing bus with
  | nil => rfl
  | cons x xs ih =>
    simp only [seqM, h x bus n]
    cases act x bus with
    | none => rfl
    | some b => exact ih b

/-- Driving a pin is blind if its notifications are. -/
theorem driveWith_blind {notify : PinId → Bus → Option Bus} (h : ∀ q, BlindToFrees (notify q)) (asm : Assembly) (p : PinId)
    (v : Bool) : BlindToFrees (driveWith notify asm p v) := by
  intro bus n
  unfold driveWith
  by_cases hv : v = bus.level p
  · rw [if_pos hv, if_pos (show v = (bus.withFrees n).level p from hv)]; rfl
  · rw [if_neg hv, if_neg (show ¬ v = (bus.withFrees n).level p from hv)]
    simp only
    cases nodeOf asm p with
    | none => rfl
    | some ps =>
      simp only
      by_cases hl : (bus.setLevel p v).nodeLevel ps = bus.queryNode asm p
      · have hl' : ((bus.withFrees n).setLevel p v).nodeLevel ps = (bus.withFrees n).queryNode asm p := hl
        rw [if_pos hl, if_pos hl']
        rfl
      · have hl' : ¬ ((bus.withFrees n).setLevel p v).nodeLevel ps = (bus.withFrees n).queryNode asm p := hl
        rw [if_neg hl, if_neg hl']
        exact seqM_blind h _ (bus.setLevel p v) n

/-- A level expression does not read the count. -/
theorem evalLevel_blind (asm : Assembly) (dev : Nat) (bus : Bus) (n : Nat) (e : LevelExpr) :
    evalLevel asm dev (bus.withFrees n) e = evalLevel asm dev bus e := by cases e <;> rfl

/-- A platform device's action is blind if notifications are. -/
theorem runAction_blind {notify : PinId → Bus → Option Bus} (h : ∀ q, BlindToFrees (notify q)) (asm : Assembly) (now : Int)
    (dev : Nat) (act : Action) : BlindToFrees (runAction notify asm now dev act) := by
  intro bus n
  cases act <;> simp only [runAction] <;> try rfl
  case drive => rw [evalLevel_blind]; exact driveWith_blind h _ _ _ _ _
  case display =>
    unfold showAt
    rw [show (bus.withFrees n).fields? dev = bus.fields? dev from rfl]
    split <;> rfl
  case activate =>
    unfold activateWith
    split
    · rw [driveWith_blind h]
      cases driveWith notify asm _ _ bus <;> rfl
    · rfl
  case deactivate =>
    unfold deactivateWith
    split
    · exact driveWith_blind h _ _ _ (bus.removeAllEvents _) n
    · rfl

/-- A notification is blind, whatever the depth. -/
theorem notifyUpTo_blind (asm : Assembly) (now : Int) (depth : Nat) (q : PinId) :
    BlindToFrees (notifyUpTo asm now depth q) := by
  induction depth generalizing q with
  | zero => intro _ _; rfl
  | succ depth ih =>
    intro bus n
    simp only [notifyUpTo, handleNotify]
    rw [show (bus.withFrees n).fields? q.dev = bus.fields? q.dev from rfl]
    split
    · split
      · simp only [decoderNotified]
        rw [show (bus.withFrees n).remainingTime q.dev now = bus.remainingTime q.dev now from rfl,
          show (bus.withFrees n).queryNode asm ⟨q.dev, 0⟩ = bus.queryNode asm ⟨q.dev, 0⟩ from rfl]
        split
        · split <;> rfl
        · rfl
      · rfl
    · split
      · exact driveWith_blind ih _ _ _ (bus.setFields q.dev _) n
      · rfl
    · exact seqM_blind (runAction_blind ih asm now q.dev) _ (bus.record _) n
    · rfl

/-- `drive` is blind. -/
theorem drive_blind (asm : Assembly) (now : Int) (p : PinId) (v : Bool) : BlindToFrees (drive asm now p v) :=
  driveWith_blind (fun q => notifyUpTo_blind asm now _ q) asm p v

/-- A device's reset hook is blind. -/
theorem resetHook_blind (asm : Assembly) (now : Int) (dev : Nat) : BlindToFrees (resetHook asm now dev) := by
  intro bus n
  unfold resetHook
  split
  · generalize hb : bus.setFields dev (.divider true) = b
    rw [show (bus.withFrees n).setFields dev (.divider true) = b.withFrees n from hb ▸ rfl, drive_blind]
    cases drive asm now ⟨dev, 0⟩ true b <;> rfl
  · simp only
    generalize hb : (bus.setFields dev (.decoder false (bus.queryNode asm ⟨dev, 0⟩) 0)).removeAllEvents dev = b
    rw [show ((bus.withFrees n).setFields dev (.decoder false ((bus.withFrees n).queryNode asm ⟨dev, 0⟩) 0)).removeAllEvents
      dev = b.withFrees n from hb ▸ rfl, drive_blind]
    cases drive asm now ⟨dev, 1⟩ true b with
    | none => rfl
    | some b => exact drive_blind asm now ⟨dev, 2⟩ true b n
  · exact drive_blind asm now ⟨dev, 2⟩ _ (bus.setFields dev _) n
  · exact drive_blind asm now ⟨dev, 0⟩ _ ((bus.setFields dev .autoReset).removeAllEvents dev) n
  · exact seqM_blind (runAction_blind (fun q => notifyUpTo_blind asm now _ q) asm now dev) _ (bus.setFields dev _) n
  · rfl

/-- Step (5) of R1001 is blind. -/
theorem resetHooks_blind (asm : Assembly) : BlindToFrees (resetHooks asm) := seqM_blind (resetHook_blind asm 0) _

/-- Step (6) of R1001 is blind. -/
theorem resetSweep_blind (asm : Assembly) : BlindToFrees (resetSweep asm) :=
  seqM_blind (fun q => notifyUpTo_blind asm 0 _ q) _

end Sys2Proof.Machine
end

