-- ==== Sys2Proof/Laws/Inv.lean ====
section
/-! SUPPORT. The bus part of the invariant is closed under every update of the bus; a reset, all of it. -/

namespace Sys2Proof.Machine

/-- Ordered events and fitting pins (R930, R940). -/
def BusFits (asm : Assembly) (bus : Bus) : Prop := EventsOrdered bus ∧ PinsFit asm bus

/-- Removing events keeps them ordered. -/
theorem eventsOrdered_filter (bus : Bus) (p : Event → Bool) (h : EventsOrdered bus) :
    EventsOrdered { bus with events := bus.events.filter p } :=
  ⟨h.1.sublist (List.filter_sublist.map _), fun e he => h.2 e (List.mem_of_mem_filter he)⟩

/-- Every primitive update of the bus keeps events ordered and pins fitting. -/
theorem busFits_closed (asm : Assembly) : BusClosed (BusFits asm) where
  setLevel := by
    rintro bus p v ⟨h1, h2⟩
    refine ⟨h1, ?_⟩
    unfold PinsFit at *
    rw [← h2]
    apply List.ext_getElem?
    intro i
    simp [Bus.setLevel, List.getElem?_modify]
    split <;> cases bus.devs[i]? <;> simp
  setFields := by
    rintro bus dev fields ⟨h1, h2⟩
    refine ⟨h1, ?_⟩
    unfold PinsFit at *
    rw [← h2]
    apply List.ext_getElem?
    intro i
    simp [Bus.setFields, List.getElem?_modify]
    split <;> cases bus.devs[i]? <;> simp
  addEvent := by
    rintro bus dev t x ⟨⟨h0, h1⟩, h2⟩
    refine ⟨⟨?_, ?_⟩, h2⟩
    · simp only [Bus.addEvent, List.map_append, List.pairwise_append]
      exact ⟨h0, by simp, by simpa using h1⟩
    · intro e he
      simp only [Bus.addEvent, List.mem_append, List.mem_singleton] at he ⊢
      rcases he with he | rfl
      · exact Nat.lt_succ_of_lt (h1 e he)
      · exact Nat.lt_succ_self _
  removeAllEvents := fun bus _ h => ⟨eventsOrdered_filter bus _ h.1, h.2⟩
  dropEvent := fun bus _ h => ⟨eventsOrdered_filter bus _ h.1, h.2⟩
  record := fun _ _ h => h
  requestInterrupt := fun _ _ h => h
  withdrawInterrupt := fun _ h => h
  requestReset := fun _ h => h
  useFree := fun _ _ h => h

/-- The cleared bus of a reset fits, whatever it was (R1001 steps 2 to 4). -/
theorem busFits_cleared (asm : Assembly) (bus : Bus) : BusFits asm (bus.cleared asm) := by
  refine ⟨⟨List.Pairwise.nil, fun e he => absurd he (by simp [Bus.cleared])⟩, ?_⟩
  unfold PinsFit
  simp [Bus.cleared, firstDevices, Function.comp_def]

/-- A reset, all of it: what the devices' hooks and the sweep leave on the bus, and the CPU's reset values (R1001). -/
theorem resetMachine_eq (s t : State) (h : resetMachine s = some t) :
    ∃ mid bus, resetHooks s.asm (s.bus.cleared s.asm) = some mid ∧ resetSweep s.asm mid = some bus ∧
      t = { s with
        a := 0x00#8, b := 0x00#8, c := 0x00#8, d := 0x00#8, e := 0x00#8, h := 0x00#8, l := 0x00#8
        f := fixF s.par 0x02#8, sp := 0x0000#16, pc := 0x0000#16
        ie := false, dly := false, halted := false, cyc := 0, bus := bus } := by
  unfold resetMachine at h
  split at h
  · cases h
  · rename_i mid hm
    split at h
    · cases h
    · rename_i bus hb
      cases h
      exact ⟨mid, bus, hm, hb, rfl⟩

end Sys2Proof.Machine
end

