-- ==== Sys2Proof/Laws/Memory.lean ====
section
/-! SUPPORT. Memory: a read after a write, the canonical form kept by every operation, and equal memories being equal
data. -/

namespace Sys2Proof.Machine

/-- Reading the address just stored gives the stored byte. -/
@[simp] theorem stored_store_same (m : Memory) (a : Nat) (v : Byte) : Memory.stored (Memory.store m a v) a = some v := by
  induction m with
  | nil => simp [Memory.store, Memory.stored]
  | cons x m ih =>
    obtain ⟨k, y⟩ := x
    simp only [Memory.store]
    split
    · simp [Memory.stored]
    · split
      · simp [Memory.stored]
      · rename_i h1 h2
        simp [Memory.stored, ih, Ne.symm h2]

/-- A store leaves every other address as it was. -/
theorem stored_store_other (m : Memory) (a b : Nat) (v : Byte) (h : b ≠ a) :
    Memory.stored (Memory.store m a v) b = Memory.stored m b := by
  induction m with
  | nil => simp [Memory.store, Memory.stored, Ne.symm h]
  | cons x m ih =>
    obtain ⟨k, y⟩ := x
    simp only [Memory.store]
    split
    · simp [Memory.stored, Ne.symm h]
    · split
      · rename_i h1 h2
        subst h2
        simp [Memory.stored, Ne.symm h]
      · simp only [Memory.stored, ih]

/-- Every address in the list is inside the planes and above the bound. -/
def Memory.above (lo : Nat) : Memory → Prop
  | [] => True
  | (k, _) :: m => lo ≤ k ∧ k < 16777216 ∧ Memory.above (k + 1) m

/-- The canonical form as a bound carried along the list. -/
theorem wf_iff_above (m : Memory) : Memory.wf m = true ↔ Memory.above 0 m := by
  suffices h : ∀ (m : Memory) (k : Nat) (v : Byte),
      Memory.wf ((k, v) :: m) = true ↔ k < 16777216 ∧ Memory.above (k + 1) m by
    cases m with
    | nil => simp [Memory.wf, Memory.above]
    | cons x m => obtain ⟨k, v⟩ := x; rw [h]; simp [Memory.above]
  intro m
  induction m with
  | nil => intro k v; simp [Memory.wf, Memory.above]
  | cons x m ih =>
    intro k v
    obtain ⟨b, w⟩ := x
    simp only [Memory.wf, Memory.above, Bool.and_eq_true, decide_eq_true_eq, ih]
    constructor
    · rintro ⟨h1, h2, h3⟩; exact ⟨by omega, by omega, h2, h3⟩
    · rintro ⟨_, h1, h2, h3⟩; exact ⟨by omega, h2, h3⟩

/-- A store keeps the carried bound. -/
theorem above_store (m : Memory) (lo a : Nat) (v : Byte) (hm : Memory.above lo m) (hlo : lo ≤ a) (ha : a < 16777216) :
    Memory.above lo (Memory.store m a v) := by
  induction m generalizing lo with
  | nil => exact ⟨hlo, ha, trivial⟩
  | cons x m ih =>
    obtain ⟨k, y⟩ := x
    obtain ⟨h1, h2, h3⟩ := hm
    simp only [Memory.store]
    split
    · exact ⟨hlo, ha, by omega, h2, h3⟩
    · split
      · rename_i h; subst h; exact ⟨hlo, ha, h3⟩
      · exact ⟨h1, h2, ih (k + 1) h3 (by omega)⟩

/-- A key as a number. -/
theorem cellKey_eq (p : Byte) (a : Word) : cellKey p a = p.toNat * 65536 + a.toNat := by
  unfold cellKey
  rw [BitVec.toNat_append, ← Nat.shiftLeft_add_eq_or_of_lt a.isLt, Nat.shiftLeft_eq]

/-- Every plane and address has a key inside the planes. -/
theorem cellKey_lt (p : Byte) (a : Word) : cellKey p a < 16777216 := (p ++ a).isLt

/-- Keys are equal only for one plane and one address. -/
theorem cellKey_inj (p q : Byte) (a b : Word) (h : cellKey p a = cellKey q b) : p = q ∧ a = b := by
  have := a.isLt
  have := b.isLt
  rw [cellKey_eq, cellKey_eq] at h
  exact ⟨BitVec.eq_of_toNat_eq (by omega), BitVec.eq_of_toNat_eq (by omega)⟩

/-- Different addresses have different keys, whatever their planes. -/
theorem cellKey_ne (p q : Byte) (a b : Word) (h : a ≠ b) : cellKey p a ≠ cellKey q b :=
  fun e => h (cellKey_inj p q a b e).2

/-- A store keeps the canonical form. -/
theorem wf_store (m : Memory) (p : Byte) (a : Word) (v : Byte) (h : Memory.wf m = true) :
    Memory.wf (Memory.store m (cellKey p a) v) = true := by
  rw [wf_iff_above] at h ⊢
  exact above_store m 0 _ v h (Nat.zero_le _) (cellKey_lt p a)

/-- A write through the map keeps the canonical form. -/
theorem wf_storeVia (k : MemKind) (m : Memory) (a : Word) (v : Byte) (h : Memory.wf m = true) :
    Memory.wf (storeVia k m a v) = true := by
  cases k <;> first | exact wf_store _ _ _ _ h | exact h

/-- So does `setByte`. -/
theorem wf_setByte (s : State) (a : Word) (v : Byte) (h : Memory.wf s.mem = true) :
    Memory.wf (s.setByte a v).mem = true := wf_storeVia _ _ _ _ h

/-- And a byte the platform gives. -/
theorem wf_loadByte (s : State) (a : Word) (v : Byte) (h : Memory.wf s.mem = true) :
    Memory.wf (s.loadByte a v).mem = true := by
  show Memory.wf (loadVia (s.memKind a) s.mem a v) = true
  cases s.memKind a <;> first | exact wf_store _ _ _ _ h | exact h

/-- Nothing is stored below the bound. -/
theorem stored_below (m : Memory) (lo a : Nat) (hm : Memory.above lo m) (h : a < lo) : Memory.stored m a = none := by
  induction m generalizing lo with
  | nil => rfl
  | cons x m ih =>
    obtain ⟨k, y⟩ := x
    obtain ⟨h1, _, h3⟩ := hm
    simp only [Memory.stored]
    rw [if_neg (by omega)]
    exact ih (k + 1) h3 (by omega)

/-- Two canonical memories that store the same bytes are the same data. -/
theorem canonical_ext (m m' : Memory) (h : Memory.wf m = true) (h' : Memory.wf m' = true)
    (same : ∀ a, Memory.stored m a = Memory.stored m' a) : m = m' := by
  rw [wf_iff_above] at h h'
  generalize 0 = lo at h h'
  induction m generalizing m' lo with
  | nil =>
    cases m' with
    | nil => rfl
    | cons y m' => obtain ⟨k, w⟩ := y; simpa [Memory.stored] using same k
  | cons x m ih =>
    obtain ⟨k, v⟩ := x
    cases m' with
    | nil => simpa [Memory.stored] using same k
    | cons y m' =>
      obtain ⟨k', w⟩ := y
      obtain ⟨_, _, h3⟩ := h
      obtain ⟨_, _, h3'⟩ := h'
      have hk : k = k' := by
        rcases Nat.lt_trichotomy k k' with hlt | heq | hgt
        · have := same k
          simp [Memory.stored, Nat.ne_of_gt hlt, stored_below m' (k' + 1) k h3' (by omega)] at this
        · exact heq
        · have := same k'
          simp [Memory.stored, Nat.ne_of_gt hgt, stored_below m (k + 1) k' h3 (by omega)] at this
      subst hk
      have hv : v = w := by simpa [Memory.stored] using same k
      subst hv
      congr 1
      refine ih m' (fun a => ?_) (k + 1) h3 h3'
      by_cases hak : k = a
      · subst hak
        rw [stored_below m (k + 1) k h3 (by omega), stored_below m' (k + 1) k h3' (by omega)]
      · simpa [Memory.stored, hak] using same a

/-- Everything a write does, by what stands at the address (R208). -/
theorem setByte_cases (s : State) (a : Word) (v : Byte) :
    (∃ p, s.memKind a = .ram p ∧ s.setByte a v = { s with mem := Memory.store s.mem (cellKey p a) v }) ∨
      (((∃ p, s.memKind a = .rom p) ∨ ∃ w, s.memKind a = .hole w) ∧ s.setByte a v = s) ∨
      (s.memKind a = .select ∧ s.setByte a v = { s with bank := v }) ∨
      (s.memKind a = .external ∧ s.setByte a v = { s with outside := s.outside ++ [(a, v)] }) := by
  unfold State.setByte
  cases h : s.memKind a with
  | ram p => exact .inl ⟨p, rfl, rfl⟩
  | rom p => exact .inr (.inl ⟨.inl ⟨p, rfl⟩, rfl⟩)
  | hole w => exact .inr (.inl ⟨.inr ⟨w, rfl⟩, rfl⟩)
  | select => exact .inr (.inr (.inl ⟨rfl, rfl⟩))
  | external => exact .inr (.inr (.inr ⟨rfl, rfl⟩))

/-- A write to storage leaves what stands at every address. -/
theorem memKind_setByte (s : State) (a b : Word) (v : Byte) (h : s.isStorage a = true) :
    (s.setByte a v).memKind b = s.memKind b := by
  rcases setByte_cases s a v with ⟨p, _, e⟩ | ⟨_, e⟩ | ⟨hk, _⟩ | ⟨hk, _⟩
  · rw [e]; rfl
  · rw [e]
  · simp [State.isStorage, hk] at h
  · simp [State.isStorage, hk] at h

/-- So a write to storage leaves which addresses are storage and which are read-write. -/
theorem isStorage_setByte (s : State) (a b : Word) (v : Byte) (h : s.isStorage a = true) :
    (s.setByte a v).isStorage b = s.isStorage b := by
  simp [State.isStorage, memKind_setByte s a b v h]

/-- See `isStorage_setByte`. -/
theorem isRam_setByte (s : State) (a b : Word) (v : Byte) (h : s.isStorage a = true) :
    (s.setByte a v).isRam b = s.isRam b := by
  simp [State.isRam, memKind_setByte s a b v h]

/-- Read-write storage is storage. -/
theorem isStorage_of_isRam (s : State) (a : Word) (h : s.isRam a = true) : s.isStorage a = true := by
  unfold State.isRam at h
  unfold State.isStorage
  split at h <;> simp_all

/-- Under the empty map, the default instance of R208, every address is read-write storage. -/
theorem isRam_of_flat (s : State) (a : Word) (h : s.par.map = []) : s.isRam a = true := by
  simp [State.isRam, State.memKind, memKindAt, h]

/-- A byte read after a write to storage: the byte written where it was read-write storage, and as before elsewhere. -/
theorem getByte_setByte (s : State) (a b : Word) (v : Byte) (h : s.isStorage a = true) :
    (s.setByte a v).getByte b = if b = a ∧ s.isRam a = true then v else s.getByte b := by
  rcases setByte_cases s a v with ⟨p, hk, e⟩ | ⟨hk, e⟩ | ⟨hk, _⟩ | ⟨hk, _⟩
  · have hr : s.isRam a = true := by simp [State.isRam, hk]
    have hm := memKind_setByte s a b v h
    by_cases hb : b = a
    · subst hb
      rw [if_pos ⟨rfl, hr⟩]
      unfold State.getByte
      rw [hm, hk, e]
      simp [State.planeByte]
    · rw [if_neg fun c => hb c.1]
      unfold State.getByte
      rw [hm, e]
      cases s.memKind b <;> simp [State.planeByte, stored_store_other _ _ _ _ (cellKey_ne _ p _ _ hb)]
  · have hr : s.isRam a = false := by rcases hk with ⟨_, hk⟩ | ⟨_, hk⟩ <;> simp [State.isRam, hk]
    rw [e, hr]
    simp
  · simp [State.isStorage, hk] at h
  · simp [State.isStorage, hk] at h

/-- A byte of read-write storage read after it was stored. -/
@[simp] theorem getByte_setByte_same (s : State) (a : Word) (v : Byte) (h : s.isRam a = true) :
    (s.setByte a v).getByte a = v := by
  rw [getByte_setByte s a a v (isStorage_of_isRam s a h), if_pos ⟨rfl, h⟩]

/-- A write to storage leaves every other byte as it was. -/
theorem getByte_setByte_other (s : State) (a b : Word) (v : Byte) (hs : s.isStorage a = true) (h : b ≠ a) :
    (s.setByte a v).getByte b = s.getByte b := by
  rw [getByte_setByte s a b v hs, if_neg fun c => h c.1]

end Sys2Proof.Machine
end

