-- ==== Sys2Proof/Laws/Ops.lean ====
section
/-! SUPPORT. The shared operations over the stack, PC, CYC and interrupts: everything each of them does, once. -/

namespace Sys2Proof.Machine

/-- The two addresses a push writes are distinct. -/
theorem below_ne (x : Word) : x - 1 - 1 ≠ x - 1 := by
  intro h
  have := congrArg (· + 1#16) h
  simp at this

/-- Reading back what a push stored, on storage (R16). -/
theorem push16_getByte (s : State) (v x : Word) (h1 : s.isStorage (s.sp - 1) = true)
    (h2 : s.isStorage (s.sp - 1 - 1) = true) :
    (s.push16 v).getByte x =
      if x = s.sp - 1 - 1 ∧ s.isRam (s.sp - 1 - 1) = true then loByte v
      else if x = s.sp - 1 ∧ s.isRam (s.sp - 1) = true then hiByte v else s.getByte x := by
  have e1 : (s.setByte (s.sp - 1) (hiByte v)).isStorage (s.sp - 1 - 1) = true := by
    rw [isStorage_setByte s _ _ _ h1]; exact h2
  have key := getByte_setByte (s.setByte (s.sp - 1) (hiByte v)) (s.sp - 1 - 1) x (loByte v) e1
  rw [isRam_setByte s _ _ _ h1, getByte_setByte s _ _ _ h1] at key
  exact key

/-- The stack pointer and the word a pop gives (R16). -/
theorem pop16_eq (s : State) :
    s.pop16 = (join (s.getByte (s.sp + 1)) (s.getByte s.sp), { s with sp := s.sp + 2 }) := rfl

/-- A pop after a push onto read-write storage gives the pushed word and the old stack pointer. -/
theorem pop16_push16 (s : State) (v : Word) (h1 : s.isRam (s.sp - 1) = true) (h2 : s.isRam (s.sp - 1 - 1) = true) :
    (s.push16 v).pop16.1 = v ∧ (s.push16 v).pop16.2.sp = s.sp := by
  constructor
  · show join ((s.push16 v).getByte (s.sp - 1 - 1 + 1)) ((s.push16 v).getByte (s.sp - 1 - 1)) = v
    have h : s.sp - 1 - 1 + 1 = s.sp - 1 := by simp
    have g := fun x => push16_getByte s v x (isStorage_of_isRam s _ h1) (isStorage_of_isRam s _ h2)
    rw [h, g, g, if_neg fun e => below_ne s.sp e.1.symm, if_pos ⟨rfl, h1⟩, if_pos ⟨rfl, h2⟩]
    simp
  · show s.sp - 1 - 1 + 2 = s.sp
    bv_omega

/-- Taking an interrupt, all of it (R911 to R913): either protocol, from the acknowledged state. -/
theorem takeInterrupt_eq (s : State) :
    (s.par.intMode = .restart ∧
        s.takeInterrupt = ({ s.acknowledge with pc := rstTarget s.par s.bus.intVec }, s.par.intRstCost)) ∨
      (s.par.intMode = .call ∧
        s.takeInterrupt =
          ({ s.acknowledge.push16 s.acknowledge.pc with pc := s.bus.intVec }, s.par.intCallCost)) := by
  unfold State.takeInterrupt
  cases h : s.par.intMode
  · exact .inl ⟨rfl, rfl⟩
  · exact .inr ⟨rfl, rfl⟩

/-- After a charge CYC has the parity of the base cost (R908). -/
theorem charge_parity (s : State) (n : Nat) : (s.charge n).cyc % 2 = n % 2 := by
  rw [charge_cyc]; omega

end Sys2Proof.Machine
end

