-- ==== Sys2Proof/Laws/PerInstr.lean ====
section
/-! SUPPORT. Statements about every instruction as syntax, one lemma per constructor. -/

namespace Sys2Proof.Laws

/-- An instruction's encoding has the length its opcode gives it (R302, R313). -/
def EncodedLength.Statement (i : Instr) : Prop := (encode i).length = i.length

theorem EncodedLength.movRR (dst src : Reg) : EncodedLength.Statement (.movRR dst src) := rfl
theorem EncodedLength.movRM (dst : Reg) : EncodedLength.Statement (.movRM dst) := rfl
theorem EncodedLength.movMR (src : Reg) : EncodedLength.Statement (.movMR src) := rfl
theorem EncodedLength.mviR (dst : Reg) (n : Byte) : EncodedLength.Statement (.mviR dst n) := rfl
theorem EncodedLength.mviM (n : Byte) : EncodedLength.Statement (.mviM n) := rfl
theorem EncodedLength.lxi (pr : Pair) (nn : Word) : EncodedLength.Statement (.lxi pr nn) := rfl
theorem EncodedLength.lda (nn : Word) : EncodedLength.Statement (.lda nn) := rfl
theorem EncodedLength.sta (nn : Word) : EncodedLength.Statement (.sta nn) := rfl
theorem EncodedLength.lhld (nn : Word) : EncodedLength.Statement (.lhld nn) := rfl
theorem EncodedLength.shld (nn : Word) : EncodedLength.Statement (.shld nn) := rfl
theorem EncodedLength.ldax (pr : Pair) : EncodedLength.Statement (.ldax pr) := rfl
theorem EncodedLength.stax (pr : Pair) : EncodedLength.Statement (.stax pr) := rfl
theorem EncodedLength.xchg : EncodedLength.Statement .xchg := rfl
theorem EncodedLength.addR (src : Reg) : EncodedLength.Statement (.addR src) := rfl
theorem EncodedLength.addM : EncodedLength.Statement .addM := rfl
theorem EncodedLength.adi (n : Byte) : EncodedLength.Statement (.adi n) := rfl
theorem EncodedLength.adcR (src : Reg) : EncodedLength.Statement (.adcR src) := rfl
theorem EncodedLength.adcM : EncodedLength.Statement .adcM := rfl
theorem EncodedLength.aci (n : Byte) : EncodedLength.Statement (.aci n) := rfl
theorem EncodedLength.subR (src : Reg) : EncodedLength.Statement (.subR src) := rfl
theorem EncodedLength.subM : EncodedLength.Statement .subM := rfl
theorem EncodedLength.sui (n : Byte) : EncodedLength.Statement (.sui n) := rfl
theorem EncodedLength.sbbR (src : Reg) : EncodedLength.Statement (.sbbR src) := rfl
theorem EncodedLength.sbbM : EncodedLength.Statement .sbbM := rfl
theorem EncodedLength.sbi (n : Byte) : EncodedLength.Statement (.sbi n) := rfl
theorem EncodedLength.inrR (dst : Reg) : EncodedLength.Statement (.inrR dst) := rfl
theorem EncodedLength.inrM : EncodedLength.Statement .inrM := rfl
theorem EncodedLength.dcrR (dst : Reg) : EncodedLength.Statement (.dcrR dst) := rfl
theorem EncodedLength.dcrM : EncodedLength.Statement .dcrM := rfl
theorem EncodedLength.inx (pr : Pair) : EncodedLength.Statement (.inx pr) := rfl
theorem EncodedLength.dcx (pr : Pair) : EncodedLength.Statement (.dcx pr) := rfl
theorem EncodedLength.dad (pr : Pair) : EncodedLength.Statement (.dad pr) := rfl
theorem EncodedLength.daa : EncodedLength.Statement .daa := rfl
theorem EncodedLength.anaR (src : Reg) : EncodedLength.Statement (.anaR src) := rfl
theorem EncodedLength.anaM : EncodedLength.Statement .anaM := rfl
theorem EncodedLength.ani (n : Byte) : EncodedLength.Statement (.ani n) := rfl
theorem EncodedLength.xraR (src : Reg) : EncodedLength.Statement (.xraR src) := rfl
theorem EncodedLength.xraM : EncodedLength.Statement .xraM := rfl
theorem EncodedLength.xri (n : Byte) : EncodedLength.Statement (.xri n) := rfl
theorem EncodedLength.oraR (src : Reg) : EncodedLength.Statement (.oraR src) := rfl
theorem EncodedLength.oraM : EncodedLength.Statement .oraM := rfl
theorem EncodedLength.ori (n : Byte) : EncodedLength.Statement (.ori n) := rfl
theorem EncodedLength.cmpR (src : Reg) : EncodedLength.Statement (.cmpR src) := rfl
theorem EncodedLength.cmpM : EncodedLength.Statement .cmpM := rfl
theorem EncodedLength.cpi (n : Byte) : EncodedLength.Statement (.cpi n) := rfl
theorem EncodedLength.rlc : EncodedLength.Statement .rlc := rfl
theorem EncodedLength.rrc : EncodedLength.Statement .rrc := rfl
theorem EncodedLength.ral : EncodedLength.Statement .ral := rfl
theorem EncodedLength.rar : EncodedLength.Statement .rar := rfl
theorem EncodedLength.cma : EncodedLength.Statement .cma := rfl
theorem EncodedLength.cmc : EncodedLength.Statement .cmc := rfl
theorem EncodedLength.stc : EncodedLength.Statement .stc := rfl
theorem EncodedLength.jmp (nn : Word) : EncodedLength.Statement (.jmp nn) := rfl
theorem EncodedLength.jnz (nn : Word) : EncodedLength.Statement (.jnz nn) := rfl
theorem EncodedLength.jz (nn : Word) : EncodedLength.Statement (.jz nn) := rfl
theorem EncodedLength.jnc (nn : Word) : EncodedLength.Statement (.jnc nn) := rfl
theorem EncodedLength.jc (nn : Word) : EncodedLength.Statement (.jc nn) := rfl
theorem EncodedLength.jpo (nn : Word) : EncodedLength.Statement (.jpo nn) := rfl
theorem EncodedLength.jpe (nn : Word) : EncodedLength.Statement (.jpe nn) := rfl
theorem EncodedLength.jp (nn : Word) : EncodedLength.Statement (.jp nn) := rfl
theorem EncodedLength.jm (nn : Word) : EncodedLength.Statement (.jm nn) := rfl
theorem EncodedLength.call (nn : Word) : EncodedLength.Statement (.call nn) := rfl
theorem EncodedLength.cnz (nn : Word) : EncodedLength.Statement (.cnz nn) := rfl
theorem EncodedLength.cz (nn : Word) : EncodedLength.Statement (.cz nn) := rfl
theorem EncodedLength.cnc (nn : Word) : EncodedLength.Statement (.cnc nn) := rfl
theorem EncodedLength.cc (nn : Word) : EncodedLength.Statement (.cc nn) := rfl
theorem EncodedLength.cpo (nn : Word) : EncodedLength.Statement (.cpo nn) := rfl
theorem EncodedLength.cpe (nn : Word) : EncodedLength.Statement (.cpe nn) := rfl
theorem EncodedLength.cp (nn : Word) : EncodedLength.Statement (.cp nn) := rfl
theorem EncodedLength.cm (nn : Word) : EncodedLength.Statement (.cm nn) := rfl
theorem EncodedLength.ret : EncodedLength.Statement .ret := rfl
theorem EncodedLength.rnz : EncodedLength.Statement .rnz := rfl
theorem EncodedLength.rz : EncodedLength.Statement .rz := rfl
theorem EncodedLength.rnc : EncodedLength.Statement .rnc := rfl
theorem EncodedLength.rc : EncodedLength.Statement .rc := rfl
theorem EncodedLength.rpo : EncodedLength.Statement .rpo := rfl
theorem EncodedLength.rpe : EncodedLength.Statement .rpe := rfl
theorem EncodedLength.rp : EncodedLength.Statement .rp := rfl
theorem EncodedLength.rm : EncodedLength.Statement .rm := rfl
theorem EncodedLength.rst (n : BitVec 3) : EncodedLength.Statement (.rst n) := rfl
theorem EncodedLength.pchl : EncodedLength.Statement .pchl := rfl
theorem EncodedLength.pushRp (pr : Pair) : EncodedLength.Statement (.pushRp pr) := rfl
theorem EncodedLength.pushPsw : EncodedLength.Statement .pushPsw := rfl
theorem EncodedLength.popRp (pr : Pair) : EncodedLength.Statement (.popRp pr) := rfl
theorem EncodedLength.popPsw : EncodedLength.Statement .popPsw := rfl
theorem EncodedLength.xthl : EncodedLength.Statement .xthl := rfl
theorem EncodedLength.sphl : EncodedLength.Statement .sphl := rfl
theorem EncodedLength.inp (p : Byte) : EncodedLength.Statement (.inp p) := rfl
theorem EncodedLength.out (p : Byte) : EncodedLength.Statement (.out p) := rfl
theorem EncodedLength.ei : EncodedLength.Statement .ei := rfl
theorem EncodedLength.di : EncodedLength.Statement .di := rfl
theorem EncodedLength.nop : EncodedLength.Statement .nop := rfl
theorem EncodedLength.hlt : EncodedLength.Statement .hlt := rfl
theorem EncodedLength.undefNop (x : BitVec 3) : EncodedLength.Statement (.undefNop x) := rfl
theorem EncodedLength.undefJmp (nn : Word) : EncodedLength.Statement (.undefJmp nn) := rfl
theorem EncodedLength.undefRet : EncodedLength.Statement .undefRet := rfl
theorem EncodedLength.undefCall (x : BitVec 2) (nn : Word) : EncodedLength.Statement (.undefCall x nn) := rfl

end Sys2Proof.Laws
end

