-- ==== Sys2Proof/Laws/Pins.lean ====
section
/-! SUPPORT. What a driven level and a device's fields read as after an update, and what driving a pin that is attached
to no node does; the bits of a shown byte. -/

namespace Sys2Proof.Machine

/-- Writing a device's fields changes no pin level. -/
@[simp] theorem level_setFields (bus : Bus) (dev : Nat) (fields : DeviceFields) (p : PinId) :
    (bus.setFields dev fields).level p = bus.level p := by
  simp only [Bus.level, Bus.device?, Bus.setFields, List.getElem?_modify]
  by_cases h : dev = p.dev
  · subst h
    cases bus.devs[p.dev]? <;> simp
  · simp [h]

/-- Writing a device's fields changes no node's level. -/
@[simp] theorem queryNode_setFields (asm : Assembly) (bus : Bus) (dev : Nat) (fields : DeviceFields) (p : PinId) :
    (bus.setFields dev fields).queryNode asm p = bus.queryNode asm p := by
  unfold Bus.queryNode Bus.nodeLevel
  split
  · congr 1
    funext q
    exact level_setFields _ _ _ _
  · rfl

/-- A device after one of its pins is stored. -/
theorem device_setLevel (bus : Bus) (p : PinId) (v : Bool) (d : DeviceState) (h : bus.device? p.dev = some d) :
    (bus.setLevel p v).device? p.dev = some { d with levels := d.levels.set p.idx v } := by
  simp [Bus.device?, Bus.setLevel] at *
  simp [h]

/-- A device after its fields are written. -/
theorem device_setFields (bus : Bus) (dev : Nat) (fields : DeviceFields) (d : DeviceState)
    (h : bus.device? dev = some d) : (bus.setFields dev fields).device? dev = some { d with fields := fields } := by
  simp [Bus.device?, Bus.setFields] at *
  simp [h]

/-- A pin's level, read from its device. -/
theorem level_eq (bus : Bus) (p : PinId) (d : DeviceState) (h : bus.device? p.dev = some d) :
    bus.level p = d.levels[p.idx]?.getD true := by
  simp [Bus.level, h]

/-- A pin attached to no node reads its node as 1 (R943). -/
theorem queryNode_unattached (asm : Assembly) (bus : Bus) (p : PinId) (h : nodeOf asm p = none) :
    bus.queryNode asm p = true := by
  simp [Bus.queryNode, h]

/-- Driving a pin attached to no node stores its level and notifies no one, whatever a notification does (R942). -/
theorem driveWith_unattached (notify : PinId → Bus → Option Bus) (asm : Assembly) (p : PinId) (v : Bool) (bus : Bus)
    (h : nodeOf asm p = none) : driveWith notify asm p v bus = some (if v = bus.level p then bus else bus.setLevel p v) := by
  simp only [driveWith, h]
  split <;> simp_all

/-- Driving an unattached pin of a known device: the device's level list afterwards, and nothing scheduled. -/
theorem driveWith_own (notify : PinId → Bus → Option Bus) (asm : Assembly) (dev i : Nat) (v : Bool) (bus : Bus)
    (d : DeviceState) (hn : nodeOf asm ⟨dev, i⟩ = none) (h : bus.device? dev = some d) (hi : i < d.levels.length) :
    ∃ bus', driveWith notify asm ⟨dev, i⟩ v bus = some bus' ∧
      bus'.device? dev = some { d with levels := d.levels.set i v } ∧ bus'.events = bus.events ∧
      bus'.nextSeq = bus.nextSeq := by
  rw [driveWith_unattached _ _ _ _ _ hn]
  by_cases hv : v = bus.level ⟨dev, i⟩
  · refine ⟨bus, by simp [hv], ?_, rfl, rfl⟩
    rw [level_eq bus ⟨dev, i⟩ d h] at hv
    simp [hi] at hv
    subst hv
    rw [h]
    simp
  · exact ⟨_, by simp [hv], device_setLevel bus ⟨dev, i⟩ v d h, rfl, rfl⟩

/-- The bits of a byte made from a list of bits: those given, and 1 beyond them. -/
theorem byteOfBits_getLsbD (bits : List Bool) (i : Nat) (hi : i < 8) :
    (byteOfBits bits).getLsbD i = bits[i]?.getD true := by
  have key : ∀ b0 b1 b2 b3 b4 b5 b6 b7 : Bool, ∀ j, j < 8 →
      (BitVec.ofNat 8 ([b0, b1, b2, b3, b4, b5, b6, b7].zipIdx.map fun x => x.1.toNat * 2 ^ x.2).sum).getLsbD j =
        [b0, b1, b2, b3, b4, b5, b6, b7][j]?.getD true := by
    decide
  refine Eq.trans rfl ((key (bits[0]?.getD true) (bits[1]?.getD true) (bits[2]?.getD true) (bits[3]?.getD true)
    (bits[4]?.getD true) (bits[5]?.getD true) (bits[6]?.getD true) (bits[7]?.getD true) i hi).trans ?_)
  rcases i with _ | _ | _ | _ | _ | _ | _ | _ | i <;> first | rfl | omega

end Sys2Proof.Machine
end

