-- ==== Sys2Proof/Laws/Step.lean ====
section
/-! SUPPORT. One step, once: every way a pass of the loop can end, and what the drain can touch. -/

namespace Sys2Proof.Machine

/-- The drain changes nothing but the bus (R904 step 1). -/
theorem drain_eq (s t : State) (h : s.drain = some t) :
    ∃ bus, runSchedule s.asm s.cyc s.bus = some bus ∧ t = { s with bus := bus } := by
  unfold State.drain at h
  rw [Option.map_eq_some_iff] at h
  obtain ⟨bus, hb, rfl⟩ := h
  exact ⟨bus, hb, rfl⟩

/-- Everything a pass that answers can have done, in the priority of R904 (R919). -/
theorem pass_cases (mask : Byte) (s u : State) (k : StepKind) (h : pass mask s = .next (k, u)) :
    ∃ t, s.drain = some t ∧
      ((k = .reset ∧ t.bus.rstReq = true ∧ resetMachine t = some u) ∨
        (t.bus.rstReq = false ∧
          ((k = .serviced ∧ t.interruptTakeable = true ∧ u = t.service) ∨
            (t.interruptTakeable = false ∧
              ((k = .tick ∧ t.halted = true ∧ u = t.charge 1) ∨
                (t.halted = false ∧
                  ((k = .excluded ∧ classOf t.par t.fetch &&& mask ≠ 0#8 ∧ u = t) ∨
                    (k = .executed ∧ classOf t.par t.fetch &&& mask = 0#8 ∧
                      exec t.fetch { t with dly := false } = .next u)))))))) := by
  unfold pass at h
  cases hd : s.drain with
  | none => rw [hd] at h; cases h
  | some t =>
    refine ⟨t, rfl, ?_⟩
    rw [hd] at h
    simp only [State.act] at h
    by_cases h1 : t.bus.rstReq = true
    · rw [show t.kind mask = .reset by simp [State.kind, h1]] at h
      simp only at h
      cases hr : resetMachine t with
      | none => rw [hr] at h; cases h
      | some v => rw [hr] at h; cases h; exact .inl ⟨rfl, h1, rfl⟩
    · refine .inr ⟨by simpa using h1, ?_⟩
      by_cases h2 : t.interruptTakeable = true
      · rw [show t.kind mask = .serviced by simp [State.kind, h1, h2]] at h
        cases h; exact .inl ⟨rfl, h2, rfl⟩
      · refine .inr ⟨by simpa using h2, ?_⟩
        by_cases h3 : t.halted = true
        · rw [show t.kind mask = .tick by simp [State.kind, h1, h2, h3]] at h
          cases h; exact .inl ⟨rfl, h3, rfl⟩
        · refine .inr ⟨by simpa using h3, ?_⟩
          by_cases h4 : classOf t.par t.fetch &&& mask = 0#8
          · rw [show t.kind mask = .executed by simp [State.kind, h1, h2, h3, h4]] at h
            simp only at h
            cases he : exec t.fetch { t with dly := false } with
            | next v => rw [he] at h; cases h; exact .inr ⟨rfl, h4, rfl⟩
            | fault x => rw [he] at h; cases h
            | refused x => rw [he] at h; cases h
          · rw [show t.kind mask = .excluded by simp [State.kind, h1, h2, h3, h4]] at h
            cases h; exact .inl ⟨rfl, h4, rfl⟩

/-- A step is a pass under the mask in force, the way it ended dropped. -/
theorem step_eq_next (s t : State) : step s = .next t ↔ ∃ k, pass s.exclMask s = .next (k, t) := by
  unfold step
  constructor
  · intro h
    split at h
    · rename_i k u hp; cases h; exact ⟨k, hp⟩
    · cases h
    · cases h
  · rintro ⟨k, hk⟩
    rw [hk]

end Sys2Proof.Machine
end

