-- ==== Sys2Proof/Laws/Stores.lean ====
section
/-! SUPPORT. Writes through the memory map in the words of Sys2Proof/Safety.lean: what a list of writes leaves, once. -/

namespace Sys2Proof.Machine

/-- Writes change nothing but MEM's state. -/
theorem afterWrites_eq (s : State) (ws : List (Word × Byte)) :
    afterWrites s ws =
      { s with
        mem := (afterWrites s ws).mem, bank := (afterWrites s ws).bank, outside := (afterWrites s ws).outside } := by
  induction ws generalizing s with
  | nil => rfl
  | cons w ws ih => exact ih (s.setByte w.1 w.2)

/-- What an address reads as depends on MEM's state and the memory map alone. -/
theorem getByte_of_memoryIs (u t : State) (x : Word) (h : MemoryIs u t) (hp : t.par = u.par) :
    t.getByte x = u.getByte x := by
  obtain ⟨h1, h2, h3⟩ := h
  simp only [State.getByte, State.memKind, State.planeByte, h1, h2, h3, hp]

/-- An instruction that leaves MEM's state and the configuration writes no memory. -/
theorem keepsMemory_of (s t : State) (h : MemoryIs s t) (hp : t.par = s.par) : KeepsMemory s t :=
  ⟨h, fun x _ => getByte_of_memoryIs s t x h hp⟩

/-- Writes to storage leave the bytes outside them, and the written read as written where they can be. -/
theorem getByte_afterWrites (s : State) (ws : List (Word × Byte)) (hn : (ws.map (·.1)).Nodup)
    (hs : ∀ w ∈ ws, s.isStorage w.1 = true) :
    (∀ x, x ∉ ws.map (·.1) → (afterWrites s ws).getByte x = s.getByte x) ∧
      ∀ w ∈ ws, (afterWrites s ws).getByte w.1 = if s.isRam w.1 then w.2 else s.getByte w.1 := by
  induction ws generalizing s with
  | nil => exact ⟨fun _ _ => rfl, fun _ h => absurd h (by simp)⟩
  | cons w ws ih =>
    have h0 : s.isStorage w.1 = true := hs w (by simp)
    obtain ⟨hw, hn⟩ := List.nodup_cons.mp hn
    have h1 : ∀ y ∈ ws, (s.setByte w.1 w.2).isStorage y.1 = true := fun y hy => by
      rw [isStorage_setByte s w.1 y.1 w.2 h0]; exact hs y (by simp [hy])
    obtain ⟨i1, i2⟩ := ih (s.setByte w.1 w.2) hn h1
    refine ⟨fun x hx => ?_, fun y hy => ?_⟩
    · simp only [List.map_cons, List.mem_cons, not_or] at hx
      exact (i1 x hx.2).trans (getByte_setByte_other s w.1 x w.2 h0 hx.1)
    · rcases List.mem_cons.mp hy with rfl | hy
      · refine (i1 y.1 hw).trans ?_
        rw [getByte_setByte s y.1 y.1 y.2 h0]
        simp
      · have hne : y.1 ≠ w.1 := fun e => hw (List.mem_map.mpr ⟨y, hy, e⟩)
        refine (i2 y hy).trans ?_
        rw [isRam_setByte s w.1 y.1 w.2 h0, getByte_setByte_other s w.1 y.1 w.2 h0 hne]

/-- An instruction that makes the writes listed, to addresses that differ, stores them. -/
theorem stores_of (s t : State) (ws : List (Word × Byte)) (h : MemoryIs (afterWrites s ws) t) (hp : t.par = s.par)
    (hn : (ws.map (·.1)).Nodup) : Stores s t ws := by
  have hp' : t.par = (afterWrites s ws).par := by rw [afterWrites_eq]; exact hp
  refine ⟨h, fun hs => ?_⟩
  obtain ⟨h1, h2⟩ := getByte_afterWrites s ws hn fun w hw => isStorage_of_isRam s w.1 (hs w hw)
  exact ⟨fun x hx => (getByte_of_memoryIs _ t x h hp').trans (h1 x hx),
    fun w hw => (getByte_of_memoryIs _ t w.1 h hp').trans ((h2 w hw).trans (by simp [hs w hw]))⟩

/-- The memory a push leaves (R16). -/
theorem push16_stores (s t : State) (v : Word) (h : MemoryIs (s.push16 v) t) (hp : t.par = s.par) :
    Stores s t [(s.sp - 1, hiByte v), (s.sp - 2, loByte v)] := by
  have e : s.sp - 2 = s.sp - 1 - 1 := by bv_omega
  refine stores_of s t _ ?_ hp ?_
  · rw [e]; exact h
  · simp

/-- Writes do the same to MEM whatever the rest of the state. -/
theorem afterWrites_congr (ws : List (Word × Byte)) (u v : State) (h : MemoryIs u v) (hp : v.par = u.par) :
    MemoryIs (afterWrites u ws) (afterWrites v ws) := by
  induction ws generalizing u v with
  | nil => exact h
  | cons w ws ih =>
    obtain ⟨h1, h2, h3⟩ := h
    have hk : v.memKind w.1 = u.memKind w.1 := by simp only [State.memKind, h2, hp]
    exact ih _ _ ⟨by simp [hk, h1], by simp [hk, h2], by simp [hk, h3]⟩ hp

/-- What is stored from the acknowledged state of an interrupt is stored from the state itself (R911, R913). -/
theorem stores_acknowledge (s t : State) (ws : List (Word × Byte)) (h : Stores s.acknowledge t ws) : Stores s t ws := by
  have e : ∀ x, s.acknowledge.getByte x = s.getByte x := fun x => getByte_of_memoryIs s _ x ⟨rfl, rfl, rfl⟩ rfl
  obtain ⟨⟨h1, h2, h3⟩, h4⟩ := h
  obtain ⟨k1, k2, k3⟩ := afterWrites_congr ws s s.acknowledge ⟨rfl, rfl, rfl⟩ rfl
  refine ⟨⟨h1.trans k1, h2.trans k2, h3.trans k3⟩, fun hs => ?_⟩
  obtain ⟨i1, i2⟩ := h4 hs
  exact ⟨fun x hx => (i1 x hx).trans (e x), i2⟩

end Sys2Proof.Machine
end

