-- ==== Sys2Proof/Tests/Slice0.lean ====
section
/-! SUPPORT. The model's own tests: ill-formed terms refused, a word of every constructor written out from the spec's
encodings and decoded, one step of every instruction on the figures of the spec's examples, and for every statement with
hypotheses a state and operands that meet them. -/

namespace Sys2Proof.Tests

open Sys2Proof Sys2Proof.Machine

/-! ### Ill-formed terms -/

/-- LDAX and STAX use BC and DE only (R304, R411, R412). -/
theorem test_wf_refuses_ldax_hl : (Instr.ldax .hl).wf = false ∧ (Instr.ldax .sp).wf = false := by decide
/-- See above. -/
theorem test_wf_refuses_stax_sp : (Instr.stax .sp).wf = false ∧ (Instr.stax .hl).wf = false := by decide
/-- PUSH has no SP: code `11` is PSW (R304, R800). -/
theorem test_wf_refuses_push_sp : (Instr.pushRp .sp).wf = false := by decide
/-- POP has no SP (R304, R802). -/
theorem test_wf_refuses_pop_sp : (Instr.popRp .sp).wf = false := by decide
/-- Slot 000 of `00xxx000` is NOP (R813). -/
theorem test_wf_refuses_undef_nop_0 : (Instr.undefNop 0#3).wf = false ∧ (Instr.undefNop 1#3).wf = true := by decide
/-- Slot 00 of `11xx1101` is CALL (R816). -/
theorem test_wf_refuses_undef_call_0 :
    (Instr.undefCall 0#2 0x0000#16).wf = false ∧ (Instr.undefCall 3#2 0x0000#16).wf = true := by decide
/-- A list of bytes that ends inside an instruction is refused by name (notes/assumptions/19.md). -/
theorem test_decode_refuses_short :
    decode [] = .error .noOpcode ∧ decode [0xC3#8, 0x00#8] = .error .missingOperand := by decide

/-! ### Decoding: each word written from the bit pattern of its rule, the last byte first -/

/-- The decoder reads this instruction from this word of so many bits. -/
def reads (x : Nat × Nat × Instr) : Bool := decodeTableWord x.1 x.2.1 == some x.2.2

/-- R401 to R413: `MOV A,B`, `MOV C,M`, `MOV M,L`, `MVI E,5AH`, `MVI M,42H`, `LXI H`, `LDA`, `STA`, `LHLD`, `SHLD`, `LDAX D`, `STAX B`, `XCHG`. -/
theorem test_decode_data_transfer :
    [(8, 0b01111000, .movRR .a .b),
      (8, 0b01001110, .movRM .c),
      (8, 0b01110101, .movMR .l),
      (16, 0b01011010_00011110, .mviR .e 0x5A#8),
      (16, 0b01000010_00110110, .mviM 0x42#8),
      (24, 0b00010010_00110100_00100001, .lxi .hl 0x1234#16),
      (24, 0b00010010_00110100_00110001, .lxi .sp 0x1234#16),
      (24, 0b00010010_00110100_00111010, .lda 0x1234#16),
      (24, 0b00010010_00110100_00110010, .sta 0x1234#16),
      (24, 0b00010010_00110100_00101010, .lhld 0x1234#16),
      (24, 0b00010010_00110100_00100010, .shld 0x1234#16),
      (8, 0b00011010, .ldax .de),
      (8, 0b00000010, .stax .bc),
      (8, 0b11101011, .xchg)].all reads = true := by decide

/-- R501 to R520, the register forms on different registers. -/
theorem test_decode_arithmetic :
    [(8, 0b10000000, .addR .b),
      (8, 0b10000110, .addM),
      (16, 0b10000001_11000110, .adi 0x81#8),
      (8, 0b10001001, .adcR .c),
      (8, 0b10001110, .adcM),
      (16, 0b10000001_11001110, .aci 0x81#8),
      (8, 0b10010010, .subR .d),
      (8, 0b10010110, .subM),
      (16, 0b10000001_11010110, .sui 0x81#8),
      (8, 0b10011101, .sbbR .l),
      (8, 0b10011110, .sbbM),
      (16, 0b10000001_11011110, .sbi 0x81#8),
      (8, 0b00100100, .inrR .h),
      (8, 0b00110100, .inrM),
      (8, 0b00001101, .dcrR .c),
      (8, 0b00110101, .dcrM),
      (8, 0b00010011, .inx .de),
      (8, 0b00111011, .dcx .sp),
      (8, 0b00001001, .dad .bc),
      (8, 0b00100111, .daa)].all reads = true := by decide

/-- R601 to R619. -/
theorem test_decode_logical :
    [(8, 0b10100011, .anaR .e),
      (8, 0b10100110, .anaM),
      (16, 0b00001111_11100110, .ani 0x0F#8),
      (8, 0b10101111, .xraR .a),
      (8, 0b10101110, .xraM),
      (16, 0b00001111_11101110, .xri 0x0F#8),
      (8, 0b10110001, .oraR .c),
      (8, 0b10110110, .oraM),
      (16, 0b00001111_11110110, .ori 0x0F#8),
      (8, 0b10111100, .cmpR .h),
      (8, 0b10111110, .cmpM),
      (16, 0b00001111_11111110, .cpi 0x0F#8),
      (8, 0b00000111, .rlc),
      (8, 0b00001111, .rrc),
      (8, 0b00010111, .ral),
      (8, 0b00011111, .rar),
      (8, 0b00101111, .cma),
      (8, 0b00111111, .cmc),
      (8, 0b00110111, .stc)].all reads = true := by decide

/-- R701 to R718, R728, R729. -/
theorem test_decode_jumps_and_calls :
    [(24, 0b00010010_00110100_11000011, .jmp 0x1234#16),
      (24, 0b00010010_00110100_11000010, .jnz 0x1234#16),
      (24, 0b00010010_00110100_11001010, .jz 0x1234#16),
      (24, 0b00010010_00110100_11010010, .jnc 0x1234#16),
      (24, 0b00010010_00110100_11011010, .jc 0x1234#16),
      (24, 0b00010010_00110100_11100010, .jpo 0x1234#16),
      (24, 0b00010010_00110100_11101010, .jpe 0x1234#16),
      (24, 0b00010010_00110100_11110010, .jp 0x1234#16),
      (24, 0b00010010_00110100_11111010, .jm 0x1234#16),
      (24, 0b00010010_00110100_11001101, .call 0x1234#16),
      (24, 0b00010010_00110100_11000100, .cnz 0x1234#16),
      (24, 0b00010010_00110100_11001100, .cz 0x1234#16),
      (24, 0b00010010_00110100_11010100, .cnc 0x1234#16),
      (24, 0b00010010_00110100_11011100, .cc 0x1234#16),
      (24, 0b00010010_00110100_11100100, .cpo 0x1234#16),
      (24, 0b00010010_00110100_11101100, .cpe 0x1234#16),
      (24, 0b00010010_00110100_11110100, .cp 0x1234#16),
      (24, 0b00010010_00110100_11111100, .cm 0x1234#16),
      (8, 0b11101111, .rst 5#3),
      (8, 0b11101001, .pchl)].all reads = true := by decide

/-- R719 to R727. -/
theorem test_decode_returns :
    [(8, 0b11001001, .ret),
      (8, 0b11000000, .rnz),
      (8, 0b11001000, .rz),
      (8, 0b11010000, .rnc),
      (8, 0b11011000, .rc),
      (8, 0b11100000, .rpo),
      (8, 0b11101000, .rpe),
      (8, 0b11110000, .rp),
      (8, 0b11111000, .rm)].all reads = true := by decide

/-- R800 to R812. -/
theorem test_decode_stack_io_machine :
    [(8, 0b11000101, .pushRp .bc),
      (8, 0b11110101, .pushPsw),
      (8, 0b11010001, .popRp .de),
      (8, 0b11110001, .popPsw),
      (8, 0b11100011, .xthl),
      (8, 0b11111001, .sphl),
      (16, 0b00100000_11011011, .inp 0x20#8),
      (16, 0b01000000_11010011, .out 0x40#8),
      (8, 0b11111011, .ei),
      (8, 0b11110011, .di),
      (8, 0b00000000, .nop),
      (8, 0b01110110, .hlt)].all reads = true := by decide

/-- R813 to R816. -/
theorem test_decode_undefined :
    [(8, 0b00100000, .undefNop 4#3),
      (24, 0b00010010_00110100_11001011, .undefJmp 0x1234#16),
      (8, 0b11011001, .undefRet),
      (24, 0b00010010_00110100_11111101, .undefCall 3#2 0x1234#16),
      (24, 0b00010010_00110100_11011101, .undefCall 1#2 0x1234#16)].all reads = true := by decide

/-! ### One step of every instruction -/

/-- The next state, if there is one. -/
def run (i : Instr) (s : State) : Option State :=
  match exec i s with
  | .next t => some t
  | _ => none

/-- A platform device that does nothing by itself. -/
def quiet : DeviceKind := .platform ⟨[], [], [], [], [], []⟩

/-- Two quiet devices: both are sources of port 0x20 and sinks of port 0x40. -/
def twoPorts : State :=
  { State.reset with
    asm := ⟨[⟨quiet, 0⟩, ⟨quiet, 0⟩], [], [(0x20, 0), (0x20, 1)], [(0x40, 0), (0x40, 1)]⟩
    bus :=
      { Bus.empty with
        devs := [⟨[], .platform [(0x20#8, .const 0xF3#8)] 0x00#8⟩, ⟨[], .platform [(0x20#8, .const 0x7E#8)] 0x00#8⟩] } }

/-- A device that shows at port 0x21 the level of the node its pin 0 is on as bit 0, the inverse of it as bit 1 and bit 7
of the last byte written to it as bit 2; pin 1 of a quiet device is on the same node. -/
def pinPort (level : Bool) : State :=
  { State.reset with
    asm :=
      ⟨[⟨.platform ⟨[], [], [], [], [], [(0x21#8, .bits [.node 0, .notNode 0, .outBit 7])]⟩, 1⟩, ⟨quiet, 1⟩],
        [[⟨0, 0⟩, ⟨1, 0⟩]], [(0x21, 0)], []⟩
    bus :=
      { Bus.empty with
        devs :=
          [⟨[true], .platform [(0x21#8, .bits [.node 0, .notNode 0, .outBit 7])] 0x00#8⟩, ⟨[level], .platform [] 0x00#8⟩] } }

/-- A platform's memory: a switched ROM over the low half in bank 1, a hole, a bank latch and a device's address. -/
def mapped : State :=
  { State.reset with
    mem := [(0x0010, 0x11#8), (0x10010, 0x22#8)]
    par :=
      { Params.default with
        map :=
          [⟨0x0000#16, 0x7FFF#16, some 0x01#8, .rom 0x01#8⟩, ⟨0x8000#16, 0x8000#16, none, .select⟩,
            ⟨0x8001#16, 0x80FF#16, none, .hole 0xFF#8⟩, ⟨0xFFFF#16, 0xFFFF#16, none, .external⟩] } }

/-- The default parameters with UNDEF_ALIAS_MODE = nop. -/
def nopMode : Params := { Params.default with undefMode := .nop }

/-- Example of R401. -/
theorem test_mov_a_b : (run (.movRR .a .b) { State.reset with b := 0x12#8 }).map (fun t => (t.a, t.pc, t.cyc)) = some (0x12#8, 0x0001#16, 5) := by decide

/-- R402, corner case: the read uses HL as it was. -/
theorem test_mov_h_m : (run (.movRM .h) { State.reset with h := 0x20#8, mem := [(0x2000, 0x5A#8)] }).map (fun t => (t.h, t.cyc)) = some (0x5A#8, 7) := by decide

/-- Example of R403. -/
theorem test_mov_m_a : (run (.movMR .a) { State.reset with h := 0x20#8, a := 0x99#8 }).map (fun t => (t.getByte 0x2000#16, t.cyc)) = some (0x99#8, 7) := by decide

/-- Example of R404. -/
theorem test_mvi_a : (run (.mviR .a 0x05#8) State.reset).map (fun t => (t.a, t.pc)) = some (0x05#8, 0x0002#16) := by decide

/-- Example of R405. -/
theorem test_mvi_m : (run (.mviM 0x42#8) { State.reset with h := 0x30#8 }).map (fun t => (t.getByte 0x3000#16, t.cyc)) = some (0x42#8, 10) := by decide

/-- Example of R406. -/
theorem test_lxi_h : (run (.lxi .hl 0x1234#16) State.reset).map (fun t => (t.h, t.l, t.pc)) = some (0x12#8, 0x34#8, 0x0003#16) := by decide

/-- Example of R407. -/
theorem test_lda : (run (.lda 0x4000#16) { State.reset with mem := [(0x4000, 0x77#8)] }).map (fun t => (t.a, t.cyc)) = some (0x77#8, 13) := by decide

/-- Example of R408. -/
theorem test_sta : (run (.sta 0x4001#16) { State.reset with a := 0x55#8 }).map (fun t => (t.getByte 0x4001#16, t.cyc)) = some (0x55#8, 13) := by decide

/-- R409, corner case: H from 0x0000. -/
theorem test_lhld_wraps : (run (.lhld 0xFFFF#16) { State.reset with mem := [(0, 0xAB#8), (0xFFFF, 0xCD#8)] }).map (fun t => (t.h, t.l, t.cyc)) = some (0xAB#8, 0xCD#8, 16) := by decide

/-- Example of R410. -/
theorem test_shld : (run (.shld 0x5000#16) { State.reset with h := 0xAB#8, l := 0xCD#8 }).map (fun t => (t.getByte 0x5000#16, t.getByte 0x5001#16)) = some (0xCD#8, 0xAB#8) := by decide

/-- Example of R411. -/
theorem test_ldax_d : (run (.ldax .de) { State.reset with d := 0x60#8, mem := [(0x6000, 0x01#8)] }).map (fun t => (t.a, t.cyc)) = some (0x01#8, 7) := by decide

/-- Example of R412. -/
theorem test_stax_b : (run (.stax .bc) { State.reset with b := 0x60#8, c := 0x01#8, a := 0x3C#8 }).map (fun t => (t.getByte 0x6001#16)) = some (0x3C#8) := by decide

/-- R413. -/
theorem test_xchg : (run (.xchg) { State.reset with d := 0x11#8, e := 0x12#8, h := 0x22#8, l := 0x23#8 }).map (fun t => (t.d, t.e, t.h, t.l)) = some (0x22#8, 0x23#8, 0x11#8, 0x12#8) := by decide

/-- Example of R501. -/
theorem test_add_b : (run (.addR .b) { State.reset with a := 5#8, b := 3#8 }).map (fun t => (t.a, t.f)) = some (8#8, 0x02#8) := by decide

/-- R501, corner case: 0x80 + 0x80 gives Z, P, CY and no AC. -/
theorem test_add_a : (run (.addR .a) { State.reset with a := 0x80#8 }).map (fun t => (t.a, t.f)) = some (0x00#8, 0x47#8) := by decide

/-- Example of R502. -/
theorem test_add_m : (run (.addM) { State.reset with a := 0x0F#8, h := 0x20#8, mem := [(0x2000, 0x01#8)] }).map (fun t => (t.a, t.f, t.cyc)) = some (0x10#8, 0x12#8, 7) := by decide

/-- Example of R503. -/
theorem test_adi : (run (.adi 0x20#8) { State.reset with a := 0xF0#8 }).map (fun t => (t.a, t.f)) = some (0x10#8, 0x03#8) := by decide

/-- Example of R504. -/
theorem test_adc_c : (run (.adcR .c) { State.reset with a := 0x3D#8, c := 0x42#8, f := 0x03#8 }).map (fun t => (t.a, t.f)) = some (0x80#8, 0x92#8) := by decide

/-- Example of R505. -/
theorem test_adc_m : (run (.adcM) { State.reset with a := 0x01#8, f := 0x03#8, mem := [(0, 0xFE#8)] }).map (fun t => (t.a, t.f)) = some (0x00#8, 0x57#8) := by decide

/-- Example of R506. -/
theorem test_aci : (run (.aci 0x42#8) { State.reset with a := 0x14#8 }).map (fun t => (t.a, t.f)) = some (0x56#8, 0x06#8) := by decide

/-- Example of R507. -/
theorem test_sub_b : (run (.subR .b) { State.reset with a := 0x3E#8, b := 0x3E#8 }).map (fun t => (t.a, t.f)) = some (0x00#8, 0x56#8) := by decide

/-- Example of R508. -/
theorem test_sub_m : (run (.subM) { State.reset with a := 0x10#8, mem := [(0, 0x01#8)] }).map (fun t => (t.a, t.f)) = some (0x0F#8, 0x06#8) := by decide

/-- Example of R509. -/
theorem test_sui : (run (.sui 0x01#8) State.reset).map (fun t => (t.a, t.f)) = some (0xFF#8, 0x87#8) := by decide

/-- Example of R510. -/
theorem test_sbb_l : (run (.sbbR .l) { State.reset with a := 0x04#8, l := 0x02#8, f := 0x03#8 }).map (fun t => (t.a, t.f)) = some (0x01#8, 0x12#8) := by decide

/-- Example of R511. -/
theorem test_sbb_m : (run (.sbbM) { State.reset with f := 0x03#8, mem := [(0, 0x00#8)] }).map (fun t => (t.a, t.f)) = some (0xFF#8, 0x87#8) := by decide

/-- Example of R512. -/
theorem test_sbi : (run (.sbi 0x01#8) State.reset).map (fun t => (t.a, t.f)) = some (0xFF#8, 0x87#8) := by decide

/-- Example of R513, CY kept. -/
theorem test_inr_b : (run (.inrR .b) { State.reset with b := 0x0F#8, f := 0x03#8 }).map (fun t => (t.b, t.f)) = some (0x10#8, 0x13#8) := by decide

/-- Example of R514. -/
theorem test_inr_m : (run (.inrM) { State.reset with mem := [(0, 0xFF#8)] }).map (fun t => (t.getByte 0x0000#16, t.f, t.cyc)) = some (0x00#8, 0x56#8, 10) := by decide

/-- Example of R515. -/
theorem test_dcr_c : (run (.dcrR .c) { State.reset with c := 0x10#8 }).map (fun t => (t.c, t.f)) = some (0x0F#8, 0x06#8) := by decide

/-- Example of R516. -/
theorem test_dcr_m : (run (.dcrM) { State.reset with mem := [(0, 0x01#8)] }).map (fun t => (t.getByte 0x0000#16, t.f)) = some (0x00#8, 0x56#8) := by decide

/-- Example of R517. -/
theorem test_inx_d : (run (.inx .de) { State.reset with d := 0x38#8, e := 0xFF#8 }).map (fun t => (t.d, t.e, t.f)) = some (0x39#8, 0x00#8, 0x02#8) := by decide

/-- R518, corner case: 0x0000 gives 0xFFFF, no flag. -/
theorem test_dcx_sp : (run (.dcx .sp) State.reset).map (fun t => (t.sp, t.f)) = some (0xFFFF#16, 0x02#8) := by decide

/-- Example of R519. -/
theorem test_dad_b : (run (.dad .bc) { State.reset with b := 0x33#8, c := 0x9F#8, h := 0xA1#8, l := 0x7B#8, f := 0x03#8 }).map (fun t => (t.h, t.l, t.f)) = some (0xD5#8, 0x1A#8, 0x02#8) := by decide

/-- Example of R520. -/
theorem test_daa : (run (.daa) { State.reset with a := 0x7D#8 }).map (fun t => (t.a, t.f)) = some (0x83#8, 0x92#8) := by decide

/-- R520, corner case. -/
theorem test_daa_carry : (run (.daa) { State.reset with a := 0x9A#8 }).map (fun t => (t.a, t.f)) = some (0x00#8, 0x57#8) := by decide

/-- R613, worked by hand: 1111 0010 to 1110 0101. -/
theorem test_rlc : (run (.rlc) { State.reset with a := 0xF2#8 }).map (fun t => (t.a, t.f)) = some (0xE5#8, 0x03#8) := by decide

/-- R614, worked by hand: 1111 0010 to 0111 1001. -/
theorem test_rrc : (run (.rrc) { State.reset with a := 0xF2#8, f := 0x03#8 }).map (fun t => (t.a, t.f)) = some (0x79#8, 0x02#8) := by decide

/-- R615, worked by hand: 1011 0101 to 0110 1010. -/
theorem test_ral : (run (.ral) { State.reset with a := 0xB5#8 }).map (fun t => (t.a, t.f)) = some (0x6A#8, 0x03#8) := by decide

/-- R616, worked by hand: 0110 1010 to 1011 0101. -/
theorem test_rar : (run (.rar) { State.reset with a := 0x6A#8, f := 0x03#8 }).map (fun t => (t.a, t.f)) = some (0xB5#8, 0x02#8) := by decide

/-- R601: AC is bit 3 of the OR, CY is 0. -/
theorem test_ana_c : (run (.anaR .c) { State.reset with a := 0xFC#8, c := 0x0F#8, f := 0x03#8 }).map (fun t => (t.a, t.f)) = some (0x0C#8, 0x16#8) := by decide

/-- R603: neither operand has bit 3. -/
theorem test_ani : (run (.ani 0x07#8) { State.reset with a := 0x30#8, f := 0x13#8 }).map (fun t => (t.a, t.f)) = some (0x00#8, 0x46#8) := by decide

/-- R602. -/
theorem test_ana_m : (run (.anaM) { State.reset with a := 0xF8#8, mem := [(0, 0x80#8)] }).map (fun t => (t.a, t.f)) = some (0x80#8, 0x92#8) := by decide

/-- R604: CY and AC cleared. -/
theorem test_xra_a : (run (.xraR .a) { State.reset with a := 0x5A#8, f := 0x13#8 }).map (fun t => (t.a, t.f)) = some (0x00#8, 0x46#8) := by decide

/-- R605. -/
theorem test_xra_m : (run (.xraM) { State.reset with a := 0xFF#8, mem := [(0, 0x0F#8)] }).map (fun t => (t.a, t.f)) = some (0xF0#8, 0x86#8) := by decide

/-- R606. -/
theorem test_xri : (run (.xri 0x81#8) { State.reset with a := 0x3B#8 }).map (fun t => (t.a, t.f)) = some (0xBA#8, 0x82#8) := by decide

/-- R607. -/
theorem test_ora_c : (run (.oraR .c) { State.reset with a := 0x33#8, c := 0x0F#8, f := 0x13#8 }).map (fun t => (t.a, t.f)) = some (0x3F#8, 0x06#8) := by decide

/-- R608. -/
theorem test_ora_m : (run (.oraM) { State.reset with a := 0x00#8, mem := [(0, 0x80#8)] }).map (fun t => (t.a, t.f)) = some (0x80#8, 0x82#8) := by decide

/-- R609. -/
theorem test_ori : (run (.ori 0x0F#8) { State.reset with a := 0xB5#8 }).map (fun t => (t.a, t.f)) = some (0xBF#8, 0x82#8) := by decide

/-- R610: 2 - 5 borrows in both nibbles. -/
theorem test_cmp_e : (run (.cmpR .e) { State.reset with a := 0x02#8, e := 0x05#8 }).map (fun t => (t.a, t.f)) = some (0x02#8, 0x83#8) := by decide

/-- R611: equal operands. -/
theorem test_cmp_m : (run (.cmpM) { State.reset with a := 0x0A#8, mem := [(0, 0x0A#8)] }).map (fun t => (t.a, t.f)) = some (0x0A#8, 0x56#8) := by decide

/-- R612: 0x0A has two 1 bits, no borrow. -/
theorem test_cpi : (run (.cpi 0x40#8) { State.reset with a := 0x4A#8 }).map (fun t => (t.a, t.f)) = some (0x4A#8, 0x16#8) := by decide

/-- R617: no flag. -/
theorem test_cma : (run (.cma) { State.reset with a := 0x51#8, f := 0xD7#8 }).map (fun t => (t.a, t.f)) = some (0xAE#8, 0xD7#8) := by decide

/-- R618. -/
theorem test_cmc : (run (.cmc) { State.reset with f := 0xD7#8 }).map (fun t => (t.f)) = some (0xD6#8) := by decide

/-- R619. -/
theorem test_stc : (run (.stc) State.reset).map (fun t => (t.f)) = some (0x03#8) := by decide

/-- Example of R701. -/
theorem test_jmp : (run (.jmp 0x0200#16) { State.reset with pc := 0x0100#16 }).map (fun t => (t.pc, t.cyc)) = some (0x0200#16, 10) := by decide

/-- Example of R702. -/
theorem test_jnz :
    (run (.jnz 0x0200#16) { State.reset with pc := 0x0100#16, f := 0x02#8 }).map (fun t => (t.pc, t.cyc)) = some (0x0200#16, 10) ∧
      (run (.jnz 0x0200#16) { State.reset with pc := 0x0100#16, f := 0x42#8 }).map (fun t => (t.pc, t.cyc)) = some (0x0103#16, 10) := by decide

/-- Example of R711. -/
theorem test_cnz :
    (run (.cnz 0x0300#16) { State.reset with pc := 0x0100#16, sp := 0x4000#16, f := 0x02#8 }).map (fun t => (t.pc, t.sp, t.cyc)) = some (0x0300#16, 0x3FFE#16, 17) ∧
      (run (.cnz 0x0300#16) { State.reset with pc := 0x0100#16, sp := 0x4000#16, f := 0x42#8 }).map (fun t => (t.pc, t.sp, t.cyc)) = some (0x0103#16, 0x4000#16, 11) := by decide

/-- Example of R720. -/
theorem test_rnz :
    (run (.rnz) { State.reset with pc := 0x0300#16, sp := 0x3FFE#16, f := 0x02#8, mem := [(0x3FFE, 0x03#8), (0x3FFF, 0x01#8)] }).map (fun t => (t.pc, t.sp, t.cyc)) = some (0x0103#16, 0x4000#16, 11) ∧
      (run (.rnz) { State.reset with pc := 0x0300#16, sp := 0x3FFE#16, f := 0x42#8, mem := [(0x3FFE, 0x03#8), (0x3FFF, 0x01#8)] }).map (fun t => (t.pc, t.sp, t.cyc)) = some (0x0301#16, 0x3FFE#16, 5) := by decide

/-- Example of R703. -/
theorem test_jz :
    (run (.jz 0x0200#16) { State.reset with pc := 0x0100#16, f := 0x42#8 }).map (fun t => (t.pc, t.cyc)) = some (0x0200#16, 10) ∧
      (run (.jz 0x0200#16) { State.reset with pc := 0x0100#16, f := 0x02#8 }).map (fun t => (t.pc, t.cyc)) = some (0x0103#16, 10) := by decide

/-- Example of R712. -/
theorem test_cz :
    (run (.cz 0x0300#16) { State.reset with pc := 0x0100#16, sp := 0x4000#16, f := 0x42#8 }).map (fun t => (t.pc, t.sp, t.cyc)) = some (0x0300#16, 0x3FFE#16, 17) ∧
      (run (.cz 0x0300#16) { State.reset with pc := 0x0100#16, sp := 0x4000#16, f := 0x02#8 }).map (fun t => (t.pc, t.sp, t.cyc)) = some (0x0103#16, 0x4000#16, 11) := by decide

/-- Example of R721. -/
theorem test_rz :
    (run (.rz) { State.reset with pc := 0x0300#16, sp := 0x3FFE#16, f := 0x42#8, mem := [(0x3FFE, 0x03#8), (0x3FFF, 0x01#8)] }).map (fun t => (t.pc, t.sp, t.cyc)) = some (0x0103#16, 0x4000#16, 11) ∧
      (run (.rz) { State.reset with pc := 0x0300#16, sp := 0x3FFE#16, f := 0x02#8, mem := [(0x3FFE, 0x03#8), (0x3FFF, 0x01#8)] }).map (fun t => (t.pc, t.sp, t.cyc)) = some (0x0301#16, 0x3FFE#16, 5) := by decide

/-- Example of R704. -/
theorem test_jnc :
    (run (.jnc 0x0200#16) { State.reset with pc := 0x0100#16, f := 0x02#8 }).map (fun t => (t.pc, t.cyc)) = some (0x0200#16, 10) ∧
      (run (.jnc 0x0200#16) { State.reset with pc := 0x0100#16, f := 0x03#8 }).map (fun t => (t.pc, t.cyc)) = some (0x0103#16, 10) := by decide

/-- Example of R713. -/
theorem test_cnc :
    (run (.cnc 0x0300#16) { State.reset with pc := 0x0100#16, sp := 0x4000#16, f := 0x02#8 }).map (fun t => (t.pc, t.sp, t.cyc)) = some (0x0300#16, 0x3FFE#16, 17) ∧
      (run (.cnc 0x0300#16) { State.reset with pc := 0x0100#16, sp := 0x4000#16, f := 0x03#8 }).map (fun t => (t.pc, t.sp, t.cyc)) = some (0x0103#16, 0x4000#16, 11) := by decide

/-- Example of R722. -/
theorem test_rnc :
    (run (.rnc) { State.reset with pc := 0x0300#16, sp := 0x3FFE#16, f := 0x02#8, mem := [(0x3FFE, 0x03#8), (0x3FFF, 0x01#8)] }).map (fun t => (t.pc, t.sp, t.cyc)) = some (0x0103#16, 0x4000#16, 11) ∧
      (run (.rnc) { State.reset with pc := 0x0300#16, sp := 0x3FFE#16, f := 0x03#8, mem := [(0x3FFE, 0x03#8), (0x3FFF, 0x01#8)] }).map (fun t => (t.pc, t.sp, t.cyc)) = some (0x0301#16, 0x3FFE#16, 5) := by decide

/-- Example of R705. -/
theorem test_jc :
    (run (.jc 0x0200#16) { State.reset with pc := 0x0100#16, f := 0x03#8 }).map (fun t => (t.pc, t.cyc)) = some (0x0200#16, 10) ∧
      (run (.jc 0x0200#16) { State.reset with pc := 0x0100#16, f := 0x02#8 }).map (fun t => (t.pc, t.cyc)) = some (0x0103#16, 10) := by decide

/-- Example of R714. -/
theorem test_cc :
    (run (.cc 0x0300#16) { State.reset with pc := 0x0100#16, sp := 0x4000#16, f := 0x03#8 }).map (fun t => (t.pc, t.sp, t.cyc)) = some (0x0300#16, 0x3FFE#16, 17) ∧
      (run (.cc 0x0300#16) { State.reset with pc := 0x0100#16, sp := 0x4000#16, f := 0x02#8 }).map (fun t => (t.pc, t.sp, t.cyc)) = some (0x0103#16, 0x4000#16, 11) := by decide

/-- Example of R723. -/
theorem test_rc :
    (run (.rc) { State.reset with pc := 0x0300#16, sp := 0x3FFE#16, f := 0x03#8, mem := [(0x3FFE, 0x03#8), (0x3FFF, 0x01#8)] }).map (fun t => (t.pc, t.sp, t.cyc)) = some (0x0103#16, 0x4000#16, 11) ∧
      (run (.rc) { State.reset with pc := 0x0300#16, sp := 0x3FFE#16, f := 0x02#8, mem := [(0x3FFE, 0x03#8), (0x3FFF, 0x01#8)] }).map (fun t => (t.pc, t.sp, t.cyc)) = some (0x0301#16, 0x3FFE#16, 5) := by decide

/-- Example of R706. -/
theorem test_jpo :
    (run (.jpo 0x0200#16) { State.reset with pc := 0x0100#16, f := 0x02#8 }).map (fun t => (t.pc, t.cyc)) = some (0x0200#16, 10) ∧
      (run (.jpo 0x0200#16) { State.reset with pc := 0x0100#16, f := 0x06#8 }).map (fun t => (t.pc, t.cyc)) = some (0x0103#16, 10) := by decide

/-- Example of R715. -/
theorem test_cpo :
    (run (.cpo 0x0300#16) { State.reset with pc := 0x0100#16, sp := 0x4000#16, f := 0x02#8 }).map (fun t => (t.pc, t.sp, t.cyc)) = some (0x0300#16, 0x3FFE#16, 17) ∧
      (run (.cpo 0x0300#16) { State.reset with pc := 0x0100#16, sp := 0x4000#16, f := 0x06#8 }).map (fun t => (t.pc, t.sp, t.cyc)) = some (0x0103#16, 0x4000#16, 11) := by decide

/-- Example of R724. -/
theorem test_rpo :
    (run (.rpo) { State.reset with pc := 0x0300#16, sp := 0x3FFE#16, f := 0x02#8, mem := [(0x3FFE, 0x03#8), (0x3FFF, 0x01#8)] }).map (fun t => (t.pc, t.sp, t.cyc)) = some (0x0103#16, 0x4000#16, 11) ∧
      (run (.rpo) { State.reset with pc := 0x0300#16, sp := 0x3FFE#16, f := 0x06#8, mem := [(0x3FFE, 0x03#8), (0x3FFF, 0x01#8)] }).map (fun t => (t.pc, t.sp, t.cyc)) = some (0x0301#16, 0x3FFE#16, 5) := by decide

/-- Example of R707. -/
theorem test_jpe :
    (run (.jpe 0x0200#16) { State.reset with pc := 0x0100#16, f := 0x06#8 }).map (fun t => (t.pc, t.cyc)) = some (0x0200#16, 10) ∧
      (run (.jpe 0x0200#16) { State.reset with pc := 0x0100#16, f := 0x02#8 }).map (fun t => (t.pc, t.cyc)) = some (0x0103#16, 10) := by decide

/-- Example of R716. -/
theorem test_cpe :
    (run (.cpe 0x0300#16) { State.reset with pc := 0x0100#16, sp := 0x4000#16, f := 0x06#8 }).map (fun t => (t.pc, t.sp, t.cyc)) = some (0x0300#16, 0x3FFE#16, 17) ∧
      (run (.cpe 0x0300#16) { State.reset with pc := 0x0100#16, sp := 0x4000#16, f := 0x02#8 }).map (fun t => (t.pc, t.sp, t.cyc)) = some (0x0103#16, 0x4000#16, 11) := by decide

/-- Example of R725. -/
theorem test_rpe :
    (run (.rpe) { State.reset with pc := 0x0300#16, sp := 0x3FFE#16, f := 0x06#8, mem := [(0x3FFE, 0x03#8), (0x3FFF, 0x01#8)] }).map (fun t => (t.pc, t.sp, t.cyc)) = some (0x0103#16, 0x4000#16, 11) ∧
      (run (.rpe) { State.reset with pc := 0x0300#16, sp := 0x3FFE#16, f := 0x02#8, mem := [(0x3FFE, 0x03#8), (0x3FFF, 0x01#8)] }).map (fun t => (t.pc, t.sp, t.cyc)) = some (0x0301#16, 0x3FFE#16, 5) := by decide

/-- Example of R708. -/
theorem test_jp :
    (run (.jp 0x0200#16) { State.reset with pc := 0x0100#16, f := 0x02#8 }).map (fun t => (t.pc, t.cyc)) = some (0x0200#16, 10) ∧
      (run (.jp 0x0200#16) { State.reset with pc := 0x0100#16, f := 0x82#8 }).map (fun t => (t.pc, t.cyc)) = some (0x0103#16, 10) := by decide

/-- Example of R717. -/
theorem test_cp :
    (run (.cp 0x0300#16) { State.reset with pc := 0x0100#16, sp := 0x4000#16, f := 0x02#8 }).map (fun t => (t.pc, t.sp, t.cyc)) = some (0x0300#16, 0x3FFE#16, 17) ∧
      (run (.cp 0x0300#16) { State.reset with pc := 0x0100#16, sp := 0x4000#16, f := 0x82#8 }).map (fun t => (t.pc, t.sp, t.cyc)) = some (0x0103#16, 0x4000#16, 11) := by decide

/-- Example of R726. -/
theorem test_rp :
    (run (.rp) { State.reset with pc := 0x0300#16, sp := 0x3FFE#16, f := 0x02#8, mem := [(0x3FFE, 0x03#8), (0x3FFF, 0x01#8)] }).map (fun t => (t.pc, t.sp, t.cyc)) = some (0x0103#16, 0x4000#16, 11) ∧
      (run (.rp) { State.reset with pc := 0x0300#16, sp := 0x3FFE#16, f := 0x82#8, mem := [(0x3FFE, 0x03#8), (0x3FFF, 0x01#8)] }).map (fun t => (t.pc, t.sp, t.cyc)) = some (0x0301#16, 0x3FFE#16, 5) := by decide

/-- Example of R709. -/
theorem test_jm :
    (run (.jm 0x0200#16) { State.reset with pc := 0x0100#16, f := 0x82#8 }).map (fun t => (t.pc, t.cyc)) = some (0x0200#16, 10) ∧
      (run (.jm 0x0200#16) { State.reset with pc := 0x0100#16, f := 0x02#8 }).map (fun t => (t.pc, t.cyc)) = some (0x0103#16, 10) := by decide

/-- Example of R718. -/
theorem test_cm :
    (run (.cm 0x0300#16) { State.reset with pc := 0x0100#16, sp := 0x4000#16, f := 0x82#8 }).map (fun t => (t.pc, t.sp, t.cyc)) = some (0x0300#16, 0x3FFE#16, 17) ∧
      (run (.cm 0x0300#16) { State.reset with pc := 0x0100#16, sp := 0x4000#16, f := 0x02#8 }).map (fun t => (t.pc, t.sp, t.cyc)) = some (0x0103#16, 0x4000#16, 11) := by decide

/-- Example of R727. -/
theorem test_rm :
    (run (.rm) { State.reset with pc := 0x0300#16, sp := 0x3FFE#16, f := 0x82#8, mem := [(0x3FFE, 0x03#8), (0x3FFF, 0x01#8)] }).map (fun t => (t.pc, t.sp, t.cyc)) = some (0x0103#16, 0x4000#16, 11) ∧
      (run (.rm) { State.reset with pc := 0x0300#16, sp := 0x3FFE#16, f := 0x02#8, mem := [(0x3FFE, 0x03#8), (0x3FFF, 0x01#8)] }).map (fun t => (t.pc, t.sp, t.cyc)) = some (0x0301#16, 0x3FFE#16, 5) := by decide

/-- R710, corner case: the stack wraps. -/
theorem test_call : (run (.call 0x0300#16) { State.reset with pc := 0x0100#16, sp := 0x0001#16 }).map (fun t => (t.pc, t.sp, t.getByte 0x0000#16, t.getByte 0xFFFF#16)) = some (0x0300#16, 0xFFFF#16, 0x01#8, 0x03#8) := by decide

/-- Example of R719. -/
theorem test_ret : (run (.ret) { State.reset with sp := 0x3FFE#16, mem := [(0x3FFE, 0x03#8), (0x3FFF, 0x01#8)] }).map (fun t => (t.pc, t.sp, t.cyc)) = some (0x0103#16, 0x4000#16, 10) := by decide

/-- Example of R728. -/
theorem test_rst_7 : (run (.rst 7#3) { State.reset with pc := 0x0150#16, sp := 0x4000#16 }).map (fun t => (t.pc, t.getByte 0x3FFF#16, t.getByte 0x3FFE#16)) = some (0x0038#16, 0x01#8, 0x51#8) := by decide

/-- Example of R729. -/
theorem test_pchl : (run (.pchl) { State.reset with h := 0x41#8, l := 0x3E#8 }).map (fun t => (t.pc, t.cyc)) = some (0x413E#16, 5) := by decide

/-- Example of R800. -/
theorem test_push_b : (run (.pushRp .bc) { State.reset with sp := 0x4000#16, b := 0x12#8, c := 0x34#8 }).map (fun t => (t.getByte 0x3FFF#16, t.getByte 0x3FFE#16, t.sp)) = some (0x12#8, 0x34#8, 0x3FFE#16) := by decide

/-- Example of R801. -/
theorem test_push_psw : (run (.pushPsw) { State.reset with sp := 0x4000#16, a := 0x1F#8, f := 0x87#8 }).map (fun t => (t.getByte 0x3FFF#16, t.getByte 0x3FFE#16)) = some (0x1F#8, 0x87#8) := by decide

/-- Example of R802. -/
theorem test_pop_d : (run (.popRp .de) { State.reset with sp := 0x3FFE#16, mem := [(0x3FFE, 0x34#8), (0x3FFF, 0x12#8)] }).map (fun t => (t.d, t.e, t.sp)) = some (0x12#8, 0x34#8, 0x4000#16) := by decide

/-- Example of R803. -/
theorem test_pop_psw : (run (.popPsw) { State.reset with sp := 0x3FFE#16, mem := [(0x3FFE, 0xFF#8), (0x3FFF, 0x42#8)] }).map (fun t => (t.a, t.f, t.sp)) = some (0x42#8, 0xD7#8, 0x4000#16) := by decide

/-- Example of R804. -/
theorem test_xthl : (run (.xthl) { State.reset with sp := 0x10AD#16, h := 0x0B#8, l := 0x3C#8, mem := [(0x10AD, 0xF0#8), (0x10AE, 0x0D#8)] }).map (fun t => (t.h, t.l, t.getByte 0x10AD#16, t.getByte 0x10AE#16)) = some (0x0D#8, 0xF0#8, 0x3C#8, 0x0B#8) := by decide

/-- Example of R805. -/
theorem test_sphl : (run (.sphl) { State.reset with h := 0x50#8, l := 0x6C#8 }).map (fun t => (t.sp, t.cyc)) = some (0x506C#16, 5) := by decide

/-- Example of R806. -/
theorem test_in_unconnected : (run (.inp 0x10#8) State.reset).map (fun t => (t.a, t.pc, t.cyc)) = some (0xFF#8, 0x0002#16, 10) := by decide

/-- Example of R806: 0xF3 and 0x7E. -/
theorem test_in_wired_and : (run (.inp 0x20#8) twoPorts).map (fun t => (t.a)) = some (0x72#8) := by decide

/-- R129: what IN reads follows the pin levels of the moment. -/
theorem test_in_reads_pins :
    (run (.inp 0x21#8) (pinPort true)).map (·.a) = some 0xF9#8 ∧
      (run (.inp 0x21#8) (pinPort false)).map (·.a) = some 0xFA#8 := by decide

/-- Example of R807. -/
theorem test_out_every_sink : (run (.out 0x40#8) { twoPorts with a := 0x5A#8 }).map (fun t => (t.bus.calls)) = some ([.output 0 0x40#8 0x5A#8, .output 1 0x40#8 0x5A#8]) := by decide

/-- Example of R809. -/
theorem test_ei : (run (.ei) State.reset).map (fun t => (t.ie, t.dly)) = some (true, true) := by decide

/-- Example of R810. -/
theorem test_di : (run (.di) { State.reset with ie := true }).map (fun t => (t.ie, t.dly)) = some (false, false) := by decide

/-- Example of R811. -/
theorem test_nop : (run (.nop) State.reset).map (fun t => (t.pc, t.cyc)) = some (0x0001#16, 4) := by decide

/-- R812. -/
theorem test_hlt : (run (.hlt) { State.reset with pc := 0x0005#16 }).map (fun t => (t.halted, t.pc, t.cyc)) = some (true, 0x0005#16, 7) := by decide

/-- Example of R813. -/
theorem test_undef_nop : (run (.undefNop 4#3) { State.reset with pc := 0x0010#16 }).map (fun t => (t.pc, t.cyc)) = some (0x0011#16, 4) := by decide

/-- Example of R814. -/
theorem test_undef_jmp : (run (.undefJmp 0x0200#16) State.reset).map (fun t => (t.pc, t.cyc)) = some (0x0200#16, 10) := by decide

/-- Example of R815. -/
theorem test_undef_ret : (run (.undefRet) { State.reset with sp := 0x3FFE#16, mem := [(0x3FFE, 0x03#8), (0x3FFF, 0x01#8)] }).map (fun t => (t.pc, t.sp)) = some (0x0103#16, 0x4000#16) := by decide

/-- Example of R816. -/
theorem test_undef_call : (run (.undefCall 3#2 0x0300#16) { State.reset with pc := 0x0100#16, sp := 0x4000#16 }).map (fun t => (t.pc, t.sp, t.getByte 0x3FFE#16, t.getByte 0x3FFF#16)) = some (0x0300#16, 0x3FFE#16, 0x03#8, 0x01#8) := by decide

/-- R817. -/
theorem test_undef_call_as_nop : (run (.undefCall 3#2 0x0300#16) { State.reset with par := nopMode }).map (fun t => (t.pc, t.sp, t.cyc)) = some (0x0001#16, 0x0000#16, 4) := by decide

/-! ### Reset, fetch and the loop -/

/-- A state whose next instruction is the byte given. -/
def about (w : Nat) (s : State) : State := s.withFetchWord 8 w

/-- Reset gives the state the machine starts in (R130, R1001). -/
theorem test_reset_of_reset : resetMachine State.reset = some State.reset := by decide

/-- A bank switched by a store, then the ROM of that bank read, and a write to it without effect (R206, R208, R210). -/
theorem test_bank_switch :
    (run (.sta 0x8000#16) { mapped with a := 0x01#8 }).map
        (fun t => (mapped.getByte 0x0010#16, t.getByte 0x0010#16, (t.setByte 0x0010#16 0x99#8).getByte 0x0010#16)) =
      some (0x11#8, 0x22#8, 0x22#8) := by decide

/-- A push whose first byte switches the bank: its second byte then meets the ROM of the new bank (R16, R206). -/
theorem test_push_over_bank_latch :
    (run (.pushRp .bc) { mapped with sp := 0x8001#16, b := 0x01#8, c := 0x77#8 }).map
        (fun t => (t.bank, t.mem)) = some (0x01#8, mapped.mem) := by decide

/-- R1003, R1005: a sampler before the device that drives its clock low from its reset hook; a second reset changes
nothing. -/
def clocked : State :=
  { State.reset with
    asm := ⟨[⟨.sampler, 3⟩, ⟨.platform ⟨[.drive 0 (.int 0)], [], [], [], [], []⟩, 1⟩], [[⟨0, 1⟩, ⟨1, 0⟩]], [], []⟩ }
/-- See `clocked`. -/
theorem test_reset_twice :
    (resetMachine clocked).isSome = true ∧ (resetMachine clocked).bind resetMachine = resetMachine clocked := by decide

/-- A restored F has its fixed bits (R108, notes/assumptions/16.md). -/
theorem test_restore_fixed_bits :
    (restore { save State.reset with f := 0xFF#8 } State.reset).f = 0xD7#8 := by decide

/-- A pass runs the fetched byte: the source's `ADD B` (R904, R907). -/
theorem test_step_add_b :
    (match step (about 0b10000000 { State.reset with a := 5#8, b := 3#8 }) with
      | .next t => some (t.a, t.pc, t.cyc)
      | _ => none) = some (8#8, 0x0001#16, 4) := by decide

/-- A halt tick at an odd count costs two cycles (R906, R908). -/
theorem test_tick_at_odd :
    (match pass 0#8 { State.reset with halted := true, cyc := 7 } with
      | .next (k, t) => some (k, t.cyc, t.pc)
      | _ => none) = some (.tick, 9, 0x0000#16) := by decide

/-- The decimal vector byte 0xEF goes to 0x0028 (R912). -/
theorem test_rst_target : rstTarget Params.default 0x00EF#16 = 0x0028#16 := by decide

/-- An assembly with one pin in two nodes is a configuration error (R951), and so is port 256 (R952). -/
theorem test_configuration_errors :
    powerOn Params.default ⟨[⟨.divider 3, 1⟩], [[⟨0, 0⟩], [⟨0, 0⟩]], [], []⟩ [] = .refused .configurationError ∧
      powerOn Params.default ⟨[⟨quiet, 0⟩], [], [(256, 0)], []⟩ [] = .refused .configurationError :=
  ⟨rfl, rfl⟩

/-- The source's example: A at 100, B at 100, C at 50, added in that order, fire C, A, B (R933). -/
theorem test_drain_order :
    (((Bus.empty.addEvent 0 100 1).addEvent 1 100 2).addEvent 2 50 3).due 150 =
      [⟨2, 50, 3, 2⟩, ⟨0, 100, 1, 0⟩, ⟨1, 100, 2, 1⟩] := by decide

/-- A device whose pin drives the node its own input hears, always to the other level: asking it at port 1 starts a
propagation that does not end (R945). -/
def oscillator : State :=
  { State.reset with
    asm :=
      ⟨[⟨.platform ⟨[], [], [(1, [.drive 0 (.notNode 1)])], [(0x01#8, [.drive 0 (.int 0)])],
          [(0x01#8, [.drive 0 (.int 0)])], []⟩, 2⟩], [[⟨0, 0⟩, ⟨0, 1⟩]], [(1, 0)], [(1, 0)]⟩
    bus := { Bus.empty with devs := [⟨[true, true], .platform [] 0x00#8⟩] } }

/-! ### For every statement with hypotheses, what meets them -/

/-- An address of each kind, the bank's range at its two ends, and the default instance. -/
theorem witness_MemoryFollowsTheMap :
    State.reset.par.map = [] ∧ mapped.memKind 0x0000#16 = .ram 0x00#8 ∧
      { mapped with bank := 0x01#8 }.memKind 0x0000#16 = .rom 0x01#8 ∧
      { mapped with bank := 0x01#8 }.memKind 0x7FFF#16 = .rom 0x01#8 ∧ mapped.memKind 0x8001#16 = .hole 0xFF#8 ∧
      mapped.memKind 0x8000#16 = .select ∧ mapped.memKind 0xFFFF#16 = .external ∧
      mapped.memKind 0x8100#16 ≠ .external := by decide

/-- A list of writes, to read-write storage, to ROM and to a hole. -/
theorem witness_MemoryFollowsTheMap_writes :
    (([(0x8100#16, 0x01#8), (0x7FFF#16, 0x02#8), (0x80FF#16, 0x03#8)] : List (Word × Byte)).map (·.1)).Nodup ∧
      (∀ w ∈ ([(0x8100#16, 0x01#8), (0x7FFF#16, 0x02#8), (0x80FF#16, 0x03#8)] : List (Word × Byte)),
        { mapped with bank := 0x01#8 }.isStorage w.1 = true) ∧
      { mapped with bank := 0x01#8 }.isRam 0x8100#16 = true ∧ { mapped with bank := 0x01#8 }.isRam 0x7FFF#16 = false ∧
      { mapped with bank := 0x01#8 }.isRam 0x80FF#16 = false :=
  ⟨by decide, List.forall_mem_cons.2 ⟨rfl, List.forall_mem_cons.2 ⟨rfl, List.forall_mem_cons.2 ⟨rfl, by simp⟩⟩⟩,
    rfl, rfl, rfl⟩

/-- What `Stores` asks of the addresses written is met by every address of the default instance. -/
theorem witness_StoreByteResult :
    State.reset.isRam 0x0000#16 = true ∧ State.reset.isRam 0xFFFF#16 = true := by decide
theorem witness_AdditionResult : FixedBits State.reset := rfl
theorem witness_SubtractionResult : FixedBits State.reset := rfl
theorem witness_CountResult : FixedBits State.reset := rfl
theorem witness_DoubleAddResult : FixedBits State.reset := rfl
theorem witness_DecimalAdjustResult : FixedBits { State.reset with a := 0x9A#8, f := 0xD7#8 } := rfl
theorem witness_AndResult : FixedBits State.reset := rfl
theorem witness_XorOrResult : FixedBits State.reset := rfl
theorem witness_CompareResult : FixedBits State.reset := rfl
theorem witness_RotateResult : FixedBits { State.reset with a := 0x81#8, f := 0x03#8 } := rfl
theorem witness_ComplementAndCarryResult : FixedBits State.reset := rfl

theorem witness_AddThenSubRestores :
    ∃ s t u : State, Reg.b ≠ .a ∧ s.par.flagAnd = 0xD7#8 ∧ s.par.flagOr = 0x02#8 ∧ exec (.addR .b) s = .next t ∧
      exec (.subR .b) t = .next u :=
  ⟨{ State.reset with a := 0xFF#8, b := 0x01#8 }, _, _, by decide, rfl, rfl, rfl, rfl⟩

/-- Of each list a row whose condition holds and one whose condition does not. -/
theorem witness_ConditionalJumpResult :
    (Instr.jnz 0x0200#16, true, 0b000#3) ∈
        [(Instr.jnz 0x0200#16, !State.reset.flag .z, 0b000#3), (.jz 0x0200#16, State.reset.flag .z, 0b001#3)] ∧
      (Instr.jz 0x0200#16, false, 0b001#3) ∈
        [(Instr.jnz 0x0200#16, !State.reset.flag .z, 0b000#3), (.jz 0x0200#16, State.reset.flag .z, 0b001#3)] := by
  decide
theorem witness_ConditionalCallResult :
    (Instr.cp 0x0300#16, true, 0b110#3) ∈
        [(Instr.cp 0x0300#16, !State.reset.flag .s, 0b110#3), (.cm 0x0300#16, State.reset.flag .s, 0b111#3)] ∧
      (Instr.cm 0x0300#16, false, 0b111#3) ∈
        [(Instr.cp 0x0300#16, !State.reset.flag .s, 0b110#3), (.cm 0x0300#16, State.reset.flag .s, 0b111#3)] := by
  decide
theorem witness_ConditionalReturnResult :
    (Instr.rnc, true, 0b010#3) ∈ [(Instr.rnc, !State.reset.flag .cy, 0b010#3), (.rc, State.reset.flag .cy, 0b011#3)] ∧
      (Instr.rc, false, 0b011#3) ∈
        [(Instr.rnc, !State.reset.flag .cy, 0b010#3), (.rc, State.reset.flag .cy, 0b011#3)] := by
  decide

theorem witness_PushResult : Pair.isStack .bc = true ∧ Pair.isStack .hl = true := by decide
theorem witness_PopResult : Pair.isStack .bc = true ∧ Pair.isStack .hl = true := by decide
theorem witness_UndefinedAliasResult : State.reset.par.undefMode = .isaAlias := rfl
theorem witness_UndefinedNopResult :
    nopMode.undefMode = .nop ∧ isUndefined (.undefNop 1#3) = true ∧ isUndefined (.undefCall 3#2 0x0000#16) = true := by
  decide

/-- A port with two sources, and one with none. -/
theorem witness_PortInputResult :
    (ioRead twoPorts.asm twoPorts.cyc 0x20#8 twoPorts.bus).map (·.1) = some 0x72#8 ∧
      registered twoPorts.asm.inputs 0xFF#8 = [] := by
  decide
theorem witness_PortOutputResult :
    (ioWrite twoPorts.asm twoPorts.cyc 0x40#8 twoPorts.a twoPorts.bus).isSome = true ∧
      registered twoPorts.asm.outputs 0xFF#8 = [] := by
  decide
theorem witness_PortsReachEveryDevice :
    (∀ dev ∈ registered twoPorts.asm.inputs 0x20#8,
        (∃ r, kindOf twoPorts.asm dev = some (.platform r) ∧ r.onInput.lookup 0x20#8 = none) ∧
        ∃ shows out byte, twoPorts.bus.fields? dev = some (.platform shows out) ∧ shows.lookup 0x20#8 = some byte ∧
          (if dev = 0 then 0xF3#8 else 0x7E#8) = evalByte twoPorts.asm dev twoPorts.bus byte) ∧
      (∀ dev ∈ registered twoPorts.asm.outputs 0x40#8,
        ∃ r, kindOf twoPorts.asm dev = some (.platform r) ∧ r.onOutput.lookup 0x40#8 = none) ∧ 0 < 8 ∧ 7 < 8 := by
  refine ⟨?_, ?_, by decide⟩
  · intro dev h
    rw [show registered twoPorts.asm.inputs 0x20#8 = [0, 1] from rfl] at h
    simp only [List.mem_cons, List.not_mem_nil, or_false] at h
    rcases h with rfl | rfl <;> exact ⟨⟨_, rfl, rfl⟩, _, _, _, rfl, rfl, rfl⟩
  · intro dev h
    rw [show registered twoPorts.asm.outputs 0x40#8 = [0, 1] from rfl] at h
    simp only [List.mem_cons, List.not_mem_nil, or_false] at h
    rcases h with rfl | rfl <;> exact ⟨_, rfl, rfl⟩

theorem witness_DecodeEncodeRoundTrip :
    (Instr.ldax .de).wf = true ∧ (Instr.undefNop 7#3).wf = true ∧ (Instr.undefCall 1#2 0xFFFF#16).wf = true := by decide

theorem witness_StepRunsDecodedInstruction :
    ∃ s t : State, s.drain = some t ∧ t.bus.rstReq = false ∧ t.interruptTakeable = false ∧ t.halted = false ∧
      decodeBytes (t.getByte t.pc) (t.getByte (t.pc + 1)) (t.getByte (t.pc + 2)) = .addR .b ∧
      classOf t.par (.addR .b) &&& t.exclMask = 0#8 :=
  ⟨about 0x80 State.reset, about 0x80 State.reset, rfl, rfl, rfl, rfl, by decide, rfl⟩

/-- A pass of each of the five kinds. -/
theorem witness_PassPriority :
    (∃ u, pass 0#8 { State.reset with bus := Bus.empty.requestReset } = .next (.reset, u)) ∧
      (∃ u, pass 0#8 { State.reset with ie := true, bus := Bus.empty.requestInterrupt 0x0008#16 } =
        .next (.serviced, u)) ∧
      (∃ u, pass 0#8 { State.reset with halted := true } = .next (.tick, u)) ∧
      (∃ u, pass 0x40#8 (about 0x76 State.reset) = .next (.excluded, u)) ∧
      (∃ u, pass 0x40#8 (about 0x00 State.reset) = .next (.executed, u)) ∧ State.reset.par.undefMode = .isaAlias ∧
      (nopMode.undefMode = .nop ∧ isUndefined .nop = false ∧ isUndefined .undefRet = true) :=
  ⟨⟨_, rfl⟩, ⟨_, rfl⟩, ⟨_, rfl⟩, ⟨_, rfl⟩, ⟨_, rfl⟩, rfl, by decide⟩

/-- A propagation that does not end, from a port read and from a port write (R945). -/
theorem witness_OnlyPortsCanHang :
    ioRead oscillator.asm oscillator.cyc 0x01#8 oscillator.bus = none ∧
      ioWrite oscillator.asm oscillator.cyc 0x01#8 oscillator.a oscillator.bus = none ∧
      (∀ port, Instr.nop ≠ .inp port) ∧ (∀ port, Instr.nop ≠ .out port) ∧
      exec (.inp 0x01#8) oscillator = .fault .notificationHang ∧ exec (.out 0x01#8) oscillator = .fault .notificationHang :=
  ⟨by decide, by decide, by simp, by simp, rfl, rfl⟩


/-- Costs of its own for `JNZ` and `CNZ`, a second value that does not count for the first among them (R700). -/
def dearer : Params := { Params.default with costs := [(0xC2#8, 10, 12), (0xC4#8, 20, 13)] }
/-- R700: a jump has one cost, a call two. -/
theorem test_cost_by_outcome :
    baseCost dearer (.jnz 0x0200#16) false = 10 ∧ baseCost dearer (.cnz 0x0200#16) false = 13 ∧
      (run (.jnz 0x0200#16) { State.reset with par := dearer, f := 0x42#8 }).map (·.cyc) = some 10 := by decide
theorem witness_CycleParityIsBaseCost :
    (∃ t, exec .nop { State.reset with cyc := 7 } = .next t) ∧
      dearer.costs.lookup (Instr.opcode .nop) = none ∧
      dearer.costs.lookup (Instr.opcode (.jnz 0x0200#16)) = some (10, 12) ∧
      dearer.costs.lookup (Instr.opcode (.cnz 0x0200#16)) = some (20, 13) :=
  ⟨⟨_, rfl⟩, by decide, by decide, by decide⟩
theorem witness_PassAdvancesCycles :
    paramsOk State.reset.par = true ∧ ∃ u, pass 0#8 { State.reset with halted := true } = .next (.tick, u) :=
  ⟨by decide, _, rfl⟩

/-- An armed machine: a divider of period 3, its first toggle at cycle 3. -/
def divided : State :=
  { State.reset with
    asm := ⟨[⟨.divider 3, 1⟩], [], [], []⟩
    bus := { Bus.empty with events := [⟨0, 3, 3, 0⟩], nextSeq := 1, devs := [⟨[true], .divider true⟩] } }

theorem witness_InvariantKeptByStep : (about 0x00 divided).Inv ∧ ∃ t, step (about 0x00 divided) = .next t :=
  ⟨⟨by decide, rfl, ⟨by decide, by decide⟩, rfl⟩, _, rfl⟩
theorem witness_ConfigurationNeverChanges : ∃ t, step (about 0x00 divided) = .next t := ⟨_, rfl⟩

/-- A requested interrupt under either protocol. -/
def requested (mode : IntMode) : State :=
  { State.reset with
    ie := true, halted := true, sp := 0x0001#16
    par := { Params.default with intMode := mode, rstTargets := [(0x12EF#16, 0x0040#16)] }
    bus := Bus.empty.requestInterrupt 0x12EF#16 }

theorem witness_RestartDispatchResult :
    (requested .restart).drain = some (requested .restart) ∧ (requested .restart).bus.rstReq = false ∧
      (requested .restart).bus.intReq = true ∧ (requested .restart).ie = true ∧ (requested .restart).dly = false ∧
      (requested .restart).par.intMode = .restart ∧ State.reset.par.rstTargets.lookup 0x12EF#16 = none ∧
      (requested .restart).par.rstTargets.lookup (requested .restart).bus.intVec = some 0x0040#16 :=
  ⟨rfl, rfl, rfl, rfl, rfl, rfl, rfl, by decide⟩
theorem witness_CallDispatchResult :
    (requested .call).drain = some (requested .call) ∧ (requested .call).bus.rstReq = false ∧
      (requested .call).bus.intReq = true ∧ (requested .call).ie = true ∧ (requested .call).dly = false ∧
      (requested .call).par.intMode = .call :=
  ⟨rfl, rfl, rfl, rfl, rfl, rfl⟩
theorem witness_EnableDelaysOneInstruction :
    (∃ t, exec .ei (about 0x00 State.reset) = .next t ∧ ∃ u, pass 0#8 t = .next (.executed, u)) ∧
      (∃ u, pass 0x80#8 (about 0x08 { State.reset with dly := true }) = .next (.excluded, u)) ∧
      (∃ u, pass 0#8 (about 0x00 { State.reset with dly := true }) = .next (.executed, u)) ∧
      ∃ t, exec .di (about 0x00 State.reset) = .next t ∧ ∃ u, pass 0#8 t = .next (.executed, u) :=
  ⟨⟨_, rfl, _, rfl⟩, ⟨_, rfl⟩, ⟨_, rfl⟩, _, rfl, _, rfl⟩
theorem witness_FinishedStaysFinished :
    State.Finished { State.reset with halted := true } ∧
      State.drain { State.reset with halted := true } = some { State.reset with halted := true } :=
  ⟨⟨rfl, rfl⟩, rfl⟩
theorem witness_SingleStepIsOnePass :
    paramsOk State.reset.par = true ∧ ∃ k u, pass 0#8 (about 0x00 State.reset) = .next (k, u) := ⟨by decide, _, _, rfl⟩

/-- Calls that end by their budget, by a breakpoint, by an exclusion and by a reset. -/
theorem witness_ExecEndsForItsReason :
    paramsOk State.reset.par = true ∧ (∃ u, runExec 4 0#8 [] (about 0x00 State.reset) = .next (.budget, u)) ∧
      (∃ u, runExec 5 0#8 [0x0001#16] (about 0x00 State.reset) = .next (.breakpoint, u)) ∧
      (∃ u, runExec 5 0x40#8 [] (about 0x76 State.reset) = .next (.excluded, u)) ∧
      ∃ u, runExec 5 0#8 [] { State.reset with bus := Bus.empty.requestReset } = .next (.reset, u) :=
  ⟨by decide, ⟨_, rfl⟩, ⟨_, rfl⟩, ⟨_, rfl⟩, _, rfl⟩
theorem witness_IdleAdvancesExactly : ∃ t, idle 3 divided = some t := ⟨_, rfl⟩

/-- Two due events and one that is not, of two quiet devices. -/
def three : Bus := (((twoPorts.bus.addEvent 0 100 1).addEvent 1 100 2).addEvent 1 200 3)

theorem witness_DrainFiresDueInOrder :
    EventsOrdered three ∧
      ∀ e ∈ three.events, ∃ r, kindOf twoPorts.asm e.dev = some (.platform r) ∧ r.onFire = [] := by
  refine ⟨⟨by decide, by decide⟩, ?_⟩
  intro e h
  rw [show three.events = [⟨0, 100, 1, 0⟩, ⟨1, 100, 2, 1⟩, ⟨1, 200, 3, 2⟩] from rfl] at h
  simp only [List.mem_cons, List.not_mem_nil, or_false] at h
  rcases h with rfl | rfl | rfl <;> exact ⟨_, rfl, rfl⟩
theorem witness_AddedEventsWait : EventsOrdered three := ⟨by decide, by decide⟩

/-- Two quiet devices of one pin each on one node. -/
def wired (x y : Bool) : Assembly × Bus :=
  (⟨[⟨quiet, 1⟩, ⟨quiet, 1⟩], [[⟨1, 0⟩, ⟨0, 0⟩]], [], []⟩,
    { Bus.empty with devs := [⟨[x], .platform [] 0x00#8⟩, ⟨[y], .platform [] 0x00#8⟩] })

/-- Of each clause an instance: the level stays; it changes under another low driver; it changes and the node with it. -/
theorem witness_DriveNotifiesInWiringOrder :
    nodeOf (wired true true).1 ⟨0, 0⟩ = some [⟨1, 0⟩, ⟨0, 0⟩] ∧ true = (wired true true).2.level ⟨0, 0⟩ ∧
      (false ≠ (wired true false).2.level ⟨0, 0⟩ ∧
        ((wired true false).2.setLevel ⟨0, 0⟩ false).nodeLevel [⟨1, 0⟩, ⟨0, 0⟩] =
          (wired true false).2.nodeLevel [⟨1, 0⟩, ⟨0, 0⟩]) ∧
      (false ≠ (wired true true).2.level ⟨0, 0⟩ ∧
        ((wired true true).2.setLevel ⟨0, 0⟩ false).nodeLevel [⟨1, 0⟩, ⟨0, 0⟩] ≠
          (wired true true).2.nodeLevel [⟨1, 0⟩, ⟨0, 0⟩]) ∧
      ∀ q ∈ ([⟨1, 0⟩, ⟨0, 0⟩] : List PinId),
        nodeOf (wired true true).1 q = some [⟨1, 0⟩, ⟨0, 0⟩] ∧
          ∃ r, kindOf (wired true true).1 q.dev = some (.platform r) ∧ r.onNotify = [] := by
  refine ⟨by decide, by decide, by decide, by decide, ?_⟩
  intro q h
  simp only [List.mem_cons, List.not_mem_nil, or_false] at h
  rcases h with rfl | rfl <;> exact ⟨by decide, _, rfl, rfl⟩

/-- The smallest period, and a machine that a reset arms. -/
theorem witness_DividerTogglesEveryPeriod :
    (1 : Nat) ≤ 1 ∧ divided.asm = ⟨[⟨.divider 3, 1⟩], [], [], []⟩ ∧
      ∃ r, resetMachine divided = some r :=
  ⟨Nat.le_refl 1, rfl, _, rfl⟩

/-- A serial decoder, its input on a node with a quiet device's pin. -/
def decoding (x : Bool) : Assembly × Bus :=
  (⟨[⟨.decoder 5 2, 3⟩, ⟨quiet, 1⟩], [[⟨0, 0⟩, ⟨1, 0⟩]], [], []⟩,
    { Bus.empty with devs := [⟨[true, true, true], .decoder false true 0⟩, ⟨[x], .platform [] 0x00#8⟩] })

/-- Its notifications: an edge and the last level with no window open, and a window open (none of an output is). Its
samples: the first zero-length pulse of two, the second (`zrun` at the bound less one), and a bit. -/
theorem witness_DecoderSampleResult :
    kindOf (decoding true).1 0 = some (.decoder 5 2) ∧
      (decoding true).2.device? 0 = some ⟨[true, true, true], .decoder false true 0⟩ ∧
      nodeOf (decoding true).1 ⟨0, 1⟩ = none ∧ nodeOf (decoding true).1 ⟨0, 2⟩ = none ∧
      ((decoding true).2.queryNode (decoding true).1 ⟨0, 0⟩ = true ∧ 0 + 1 < 2 ∧ 2 ≤ 1 + 1) ∧
      (((decoding true).2.setFields 0 (.decoder false true 1)).device? 0 =
          some ⟨[true, true, true], .decoder false true 1⟩ ∧
        ((decoding true).2.setFields 0 (.decoder false true 1)).queryNode (decoding true).1 ⟨0, 0⟩ = true) ∧
      (decoding false).2.queryNode (decoding false).1 ⟨0, 0⟩ ≠ true ∧
      (decoding false).2.device? 0 = some ⟨[true, true, true], .decoder false true 0⟩ ∧
      (∀ e ∈ (decoding false).2.events, e.dev ≠ 0) ∧ (∀ e ∈ (decoding true).2.events, e.dev ≠ 0) ∧
      ∃ e ∈ ((decoding false).2.addEvent 0 5 0).events, e.dev = 0 := by
  decide

/-- A level sampler whose clock is low and was high. -/
theorem witness_SamplerClockResult :
    ∃ (asm : Assembly) (bus : Bus), kindOf asm 0 = some .sampler ∧
      bus.device? 0 = some ⟨[true, true, true], .sampler false true⟩ ∧ nodeOf asm ⟨0, 2⟩ = none ∧
      bus.queryNode asm ⟨0, 1⟩ = false :=
  ⟨⟨[⟨.sampler, 3⟩, ⟨quiet, 1⟩], [[⟨0, 1⟩, ⟨1, 0⟩]], [], []⟩,
    { Bus.empty with devs := [⟨[true, true, true], .sampler false true⟩, ⟨[false], .platform [] 0x00#8⟩] },
    by decide, by decide, by decide, by decide⟩

theorem witness_AutoResetSilences :
    ∃ (asm : Assembly) (bus : Bus), kindOf asm 0 = some (.autoReset 1 true) ∧ bus.device? 0 = some ⟨[false], .autoReset⟩ ∧
      nodeOf asm ⟨0, 0⟩ = none :=
  ⟨⟨[⟨.autoReset 1 true, 1⟩], [], [], []⟩, { Bus.empty with devs := [⟨[false], .autoReset⟩] }, by decide, by decide,
    by decide⟩

/-- A wired machine without a platform device: a divider whose output clocks a sampler. -/
def clockwork : State :=
  { State.reset with
    asm := ⟨[⟨.divider 3, 1⟩, ⟨.sampler, 3⟩], [[⟨0, 0⟩, ⟨1, 1⟩]], [], []⟩
    bus := Bus.empty.requestInterrupt 0x0038#16 }
theorem witness_ResetSequenceResult :
    (∃ t, resetMachine { divided with a := 0x55#8, ie := true, cyc := 9 } = some t) ∧
      (∃ t, resetMachine clockwork = some t) ∧ ∀ decl ∈ clockwork.asm.devices, ∀ r, decl.kind ≠ .platform r := by
  refine ⟨⟨_, rfl⟩, ⟨_, rfl⟩, ?_⟩
  intro decl h r
  rw [show clockwork.asm.devices = [⟨.divider 3, 1⟩, ⟨.sampler, 3⟩] from rfl] at h
  simp only [List.mem_cons, List.not_mem_nil, or_false] at h
  rcases h with rfl | rfl <;> simp

/-- A reset action's request outlives the reset (R1001, notes/assumptions/29.md), and so does its activation of a driver
(notes/assumptions/30.md). -/
theorem test_requests_of_hooks_outlive_reset :
    (resetMachine
        { State.reset with
          asm := ⟨[⟨.autoReset 7 false, 1⟩, ⟨.platform ⟨[.requestInterrupt 0x0038#16, .activate 0], [], [], [], [], []⟩, 0⟩],
            [], [], []⟩ }).map
        (fun t => (t.bus.intReq, t.bus.level ⟨0, 0⟩, t.bus.events.map (·.trigger))) = some (true, false, [7]) := by decide
/-- A wired machine that a reset ends in, two states of one configuration, and an unwired machine. -/
theorem witness_ResetIsIdempotent :
    (∃ t, resetMachine clocked = some t) ∧
      (divided.par = { divided with a := 0x55#8, halted := true }.par ∧
        divided.asm = { divided with a := 0x55#8, halted := true }.asm) ∧
      divided.asm.nodes = [] ∧ ∀ decl ∈ divided.asm.devices, ∀ r, decl.kind ≠ .platform r := by
  refine ⟨⟨_, rfl⟩, ⟨rfl, rfl⟩, rfl, ?_⟩
  intro decl h r
  rw [show divided.asm.devices = [⟨.divider 3, 1⟩] from rfl] at h
  simp only [List.mem_cons, List.not_mem_nil, or_false] at h
  subst h
  simp

end Sys2Proof.Tests
end

section
/-! SUPPORT. What a good state keeps: one relation between a state and a later one, closed under every update of the
machine, and so under every instruction, every pass and every step (O41, O43, O60). -/

namespace Sys2Proof.Machine

/-- The configuration stays (R126, R222, R946), and so does every part of the invariant. -/
structure KeepsGood (s t : State) : Prop where
  par : t.par = s.par
  asm : t.asm = s.asm
  exclMask : t.exclMask = s.exclMask
  mem : Memory.wf s.mem = true → Memory.wf t.mem = true
  fixedBits : FixedBits s → FixedBits t
  bus : BusFits s.asm s.bus → BusFits t.asm t.bus

namespace KeepsGood

variable {s t u : State}

/-- The invariant follows from its parts. -/
theorem inv (h : KeepsGood s t) (hs : s.Inv) : t.Inv := by
  obtain ⟨hmem, hfix, hbus⟩ := hs
  exact ⟨h.mem hmem, h.fixedBits hfix, h.bus hbus⟩

theorem refl (s : State) : KeepsGood s s := ⟨rfl, rfl, rfl, id, id, id⟩

theorem trans (h : KeepsGood s t) (h' : KeepsGood t u) : KeepsGood s u where
  par := h'.par.trans h.par
  asm := h'.asm.trans h.asm
  exclMask := h'.exclMask.trans h.exclMask
  mem := h'.mem ∘ h.mem
  fixedBits := h'.fixedBits ∘ h.fixedBits
  bus := h'.bus ∘ h.bus

/-! ### The updates -/

/-- Fields outside MEM's bytes, F, the bus and the configuration may change freely. -/
theorem others (h : KeepsGood s t)
    (same : u.par = t.par ∧ u.asm = t.asm ∧ u.exclMask = t.exclMask ∧ u.mem = t.mem ∧ u.f = t.f ∧ u.bus = t.bus) :
    KeepsGood s u := by
  obtain ⟨hpar, hasm, hexcl, hmem, hf, hbus⟩ := same
  refine h.trans ⟨hpar, hasm, hexcl, ?_, ?_, ?_⟩
  · rw [hmem]; exact id
  · unfold FixedBits; rw [hpar, hf]; exact id
  · rw [hasm, hbus]; exact id

theorem setReg (h : KeepsGood s t) (r : Reg) (v : Byte) : KeepsGood s (t.setReg r v) := h.others (by simp)

theorem setPair (h : KeepsGood s t) (p : Pair) (v : Word) : KeepsGood s (t.setPair p v) := h.others (by simp)

theorem charge (h : KeepsGood s t) (n : Nat) : KeepsGood s (t.charge n) := h.others (by simp)

theorem finish (h : KeepsGood s t) (i : Instr) (taken : Bool) : KeepsGood s (t.finish i taken) := h.others (by simp)

theorem next (h : KeepsGood s t) (i : Instr) : KeepsGood s (t.next i) := h.others (by simp)

theorem setA (h : KeepsGood s t) (v : Byte) : KeepsGood s { t with a := v } := h.others (by simp)

theorem setPc (h : KeepsGood s t) (w : Word) : KeepsGood s { t with pc := w } := h.others (by simp)

theorem setSp (h : KeepsGood s t) (w : Word) : KeepsGood s { t with sp := w } := h.others (by simp)

theorem setByte (h : KeepsGood s t) (x : Word) (v : Byte) : KeepsGood s (t.setByte x v) :=
  h.trans ⟨rfl, rfl, rfl, wf_setByte t x v, id, id⟩

theorem push16 (h : KeepsGood s t) (v : Word) : KeepsGood s (t.push16 v) :=
  (h.setSp _).setByte _ _ |>.setSp _ |>.setByte _ _

/-- F is always written through its masks, so that it has its fixed bits after a write whatever it held (R108). -/
theorem writeF (h : KeepsGood s t) (v : Byte) : KeepsGood s (t.writeF v) :=
  h.trans ⟨rfl, rfl, rfl, id, fun _ => fixF_fixF t.par v, id⟩

theorem setFlags (h : KeepsGood s t) (ks : List (Flag × Bool)) : KeepsGood s (t.setFlags ks) := h.writeF _

/-- A new bus is good if it fits whenever the old one did. -/
theorem withBus (h : KeepsGood s t) {bus : Bus} (fits : BusFits t.asm t.bus → BusFits t.asm bus) :
    KeepsGood s { t with bus := bus } :=
  h.trans ⟨rfl, rfl, rfl, id, id, fits⟩

end KeepsGood

/-! ### The shapes of instruction -/

theorem aluToA_keepsGood (i : Instr) (r : Alu) (s : State) : KeepsGood s (aluToA i r s) :=
  (KeepsGood.refl s).setA _ |>.setFlags _ |>.next i

theorem aluCompare_keepsGood (i : Instr) (r : Alu) (s : State) : KeepsGood s (aluCompare i r s) :=
  (KeepsGood.refl s).setFlags _ |>.next i

theorem aluToReg_keepsGood (i : Instr) (dst : Reg) (r : Alu) (s : State) : KeepsGood s (aluToReg i dst r s) :=
  (KeepsGood.refl s).setReg dst _ |>.setFlags _ |>.next i

theorem aluToM_keepsGood (i : Instr) (r : Alu) (s : State) : KeepsGood s (aluToM i r s) :=
  (KeepsGood.refl s).setByte _ _ |>.setFlags _ |>.next i

theorem rotateA_keepsGood (i : Instr) (r : Byte × Bool) (s : State) : KeepsGood s (rotateA i r s) :=
  (KeepsGood.refl s).setA _ |>.setFlags _ |>.next i

theorem jumpTo_keepsGood (i : Instr) (target : Word) (s : State) : KeepsGood s (jumpTo i target s) :=
  (KeepsGood.refl s).setPc _ |>.finish _ _

theorem jumpIf_keepsGood (i : Instr) (cnd : Cond) (target : Word) (s : State) :
    KeepsGood s (jumpIf i cnd target s) := (KeepsGood.refl s).setPc _ |>.finish _ _

theorem callTo_keepsGood (i : Instr) (target : Word) (s : State) : KeepsGood s (callTo i target s) :=
  (KeepsGood.refl s).push16 _ |>.setPc _ |>.finish _ _

theorem callIf_keepsGood (i : Instr) (cnd : Cond) (target : Word) (s : State) :
    KeepsGood s (callIf i cnd target s) := by
  unfold callIf
  split
  · exact callTo_keepsGood i target s
  · exact ((KeepsGood.refl s).setPc _).finish _ _

theorem pop16_keepsGood (s : State) : KeepsGood s s.pop16.2 := (KeepsGood.refl s).setSp _

theorem returnFrom_keepsGood (i : Instr) (s : State) : KeepsGood s (returnFrom i s) :=
  (pop16_keepsGood s).setPc _ |>.finish _ _

theorem returnIf_keepsGood (i : Instr) (cnd : Cond) (s : State) : KeepsGood s (returnIf i cnd s) := by
  unfold returnIf
  split
  · exact returnFrom_keepsGood i s
  · exact ((KeepsGood.refl s).setPc _).finish _ _

/-- An undefined opcode as the instruction it doubles, or as a one-byte NOP (R312, R817). -/
theorem undefOr_keepsGood {asAlias : State → State} (s : State) (h : KeepsGood s (asAlias s)) :
    KeepsGood s (undefOr asAlias s) := by
  unfold undefOr
  split
  · exact h
  · exact ((KeepsGood.refl s).setPc _).charge 4

/-- A port read runs devices and loads A (R806). -/
theorem execInp_keepsGood (p : Byte) (s t : State) (h : execInp p s = .next t) : KeepsGood s t := by
  unfold execInp at h
  split at h
  · cases h
  · rename_i v bus hio
    cases h
    have fits : BusFits s.asm s.bus → BusFits s.asm bus := ioRead_keeps (busFits_closed s.asm) _ _ _ _ _ _ hio
    exact (((KeepsGood.refl s).withBus fits).setA _).next _

/-- A port write runs devices (R807). -/
theorem execOut_keepsGood (p : Byte) (s t : State) (h : execOut p s = .next t) : KeepsGood s t := by
  unfold execOut at h
  split at h
  · cases h
  · rename_i bus hio
    cases h
    have fits : BusFits s.asm s.bus → BusFits s.asm bus := ioWrite_keeps (busFits_closed s.asm) _ _ _ _ _ _ hio
    exact ((KeepsGood.refl s).withBus fits).next _

/-! ### Every instruction, every pass, every step -/

/-- Every instruction, by its shape. -/
theorem exec_keepsGood (i : Instr) (s t : State) (h : exec i s = .next t) : KeepsGood s t := by
  have start := KeepsGood.refl s
  cases i with
  | movRR | movRM | mviR => cases h; exact (start.setReg _ _).next _
  | movMR | mviM | sta | stax => cases h; exact (start.setByte _ _).next _
  | shld => cases h; exact ((start.setByte _ _).setByte _ _).next _
  | lxi | inx | dcx => cases h; exact (start.setPair _ _).next _
  | xchg => cases h; exact ((start.setPair _ _).setPair _ _).next _
  | lda | ldax | cma => cases h; exact (start.setA _).next _
  | sphl => cases h; exact (start.setSp _).next _
  | lhld | ei | di => cases h; exact (start.others (by simp)).next _
  | nop => cases h; exact start.next _
  | hlt => cases h; exact (start.others (by simp)).finish _ _
  | addR | addM | adi | adcR | adcM | aci | subR | subM | sui | sbbR | sbbM | sbi | daa
  | anaR | anaM | ani | xraR | xraM | xri | oraR | oraM | ori => cases h; exact aluToA_keepsGood _ _ s
  | cmpR | cmpM | cpi => cases h; exact aluCompare_keepsGood _ _ s
  | inrR | dcrR => cases h; exact aluToReg_keepsGood _ _ _ s
  | inrM | dcrM => cases h; exact aluToM_keepsGood _ _ s
  | dad => cases h; exact ((start.setPair _ _).setFlags _).next _
  | rlc | rrc | ral | rar => cases h; exact rotateA_keepsGood _ _ s
  | cmc | stc => cases h; exact (start.setFlags _).next _
  | jmp | pchl => cases h; exact jumpTo_keepsGood _ _ s
  | jnz | jz | jnc | jc | jpo | jpe | jp | jm => cases h; exact jumpIf_keepsGood _ _ _ s
  | call | rst => cases h; exact callTo_keepsGood _ _ s
  | cnz | cz | cnc | cc | cpo | cpe | cp | cm => cases h; exact callIf_keepsGood _ _ _ s
  | ret => cases h; exact returnFrom_keepsGood _ s
  | rnz | rz | rnc | rc | rpo | rpe | rp | rm => cases h; exact returnIf_keepsGood _ _ s
  | pushRp | pushPsw => cases h; exact (start.push16 _).next _
  | popRp => cases h; exact ((pop16_keepsGood s).setPair _ _).next _
  | popPsw => cases h; exact (((pop16_keepsGood s).writeF _).setA _).next _
  | xthl =>
    cases h
    have stored := (start.setByte (s.sp + 1) s.h).setByte s.sp s.l
    exact (stored.others (by simp)).next _
  | inp p => exact execInp_keepsGood p s t h
  | out p => exact execOut_keepsGood p s t h
  | undefNop => cases h; exact undefOr_keepsGood s (start.next _)
  | undefJmp => cases h; exact undefOr_keepsGood s (jumpTo_keepsGood _ _ s)
  | undefRet => cases h; exact undefOr_keepsGood s (returnFrom_keepsGood _ s)
  | undefCall => cases h; exact undefOr_keepsGood s (callTo_keepsGood _ _ s)

/-- The drain changes the bus alone, and by primitive updates (R904, R933). -/
theorem drain_keepsGood (s t : State) (h : s.drain = some t) : KeepsGood s t := by
  obtain ⟨bus, hrun, rfl⟩ := drain_eq s t h
  exact (KeepsGood.refl s).withBus (runSchedule_keeps (busFits_closed s.asm) _ _ _ _ hrun)

/-- A reset builds a bus that fits from a cleared one, and writes F through its masks (R1001). -/
theorem resetMachine_keepsGood (s t : State) (h : resetMachine s = some t) : KeepsGood s t := by
  obtain ⟨mid, bus, hhooks, hsweep, rfl⟩ := resetMachine_eq s t h
  have fits : BusFits s.asm bus :=
    resetDevices_keeps (busFits_closed s.asm) _ _ _ _ hhooks hsweep (busFits_cleared s.asm s.bus)
  exact (((KeepsGood.refl s).writeF 0x02#8).withBus fun _ => fits).others (by simp)

/-- Acknowledging an interrupt clears the request and leaves the rest of the bus (R911). -/
theorem acknowledge_keepsGood (s : State) : KeepsGood s s.acknowledge :=
  ((KeepsGood.refl s).withBus (bus := { s.bus with intReq := false }) id).others (by simp [State.acknowledge])

/-- Taking an interrupt, by either protocol (R911 to R914). -/
theorem service_keepsGood (s : State) : KeepsGood s s.service := by
  have ack := acknowledge_keepsGood s
  unfold State.service
  rcases takeInterrupt_eq s with ⟨-, e⟩ | ⟨-, e⟩ <;> rw [e]
  · exact (ack.setPc _).charge _
  · exact ((ack.push16 _).setPc _).charge _

/-- A pass, by the way it ends (R904). -/
theorem pass_keepsGood (mask : Byte) (s u : State) (k : StepKind) (h : pass mask s = .next (k, u)) : KeepsGood s u := by
  obtain ⟨t, hdrain, hend⟩ := pass_cases mask s u k h
  refine (drain_keepsGood s t hdrain).trans ?_
  obtain ⟨-, -, hreset⟩ | ⟨-, ⟨-, -, rfl⟩ | ⟨-, ⟨-, -, rfl⟩ | ⟨-, ⟨-, -, rfl⟩ | ⟨-, -, hexec⟩⟩⟩⟩ := hend
  · exact resetMachine_keepsGood t u hreset
  · exact service_keepsGood t
  · exact (KeepsGood.refl t).charge 1
  · exact KeepsGood.refl _
  · exact ((KeepsGood.refl t).others (by simp)).trans (exec_keepsGood _ _ _ hexec)

theorem step_keepsGood (s t : State) (h : step s = .next t) : KeepsGood s t := by
  obtain ⟨k, hpass⟩ := (step_eq_next s t).mp h
  exact pass_keepsGood _ _ _ k hpass

/-! ### Reset with nothing assembled -/

/-- Without devices step (5) of R1001 has no hook to run. -/
theorem resetHooks_empty (bus : Bus) : resetHooks Assembly.empty bus = some bus := rfl

/-- Without nodes step (6) of R1001 has no pin to notify. -/
theorem resetSweep_empty (bus : Bus) : resetSweep Assembly.empty bus = some bus := rfl

/-- The state after reset is what a reset gives from itself (R130, R1001). -/
theorem resetMachine_reset : resetMachine State.reset = some State.reset := by
  have hasm : State.reset.asm = Assembly.empty := rfl
  have hbus : State.reset.bus.cleared Assembly.empty = State.reset.bus := rfl
  have hf : fixF State.reset.par 0x02#8 = State.reset.f := by decide
  simp only [resetMachine, hasm, resetHooks_empty, resetSweep_empty, hbus, hf]
  rfl

/-! ### The statements -/

/-- Settles O41: a step keeps each part of the invariant. -/
theorem invariantKeptByStep : Obligations.InvariantKeptByStep :=
  fun s t hs h => (step_keepsGood s t h).inv hs

/-- Settles O43: a step keeps the configuration. -/
theorem configurationNeverChanges : Obligations.ConfigurationNeverChanges := fun s t h =>
  have good := step_keepsGood s t h
  ⟨good.par, good.asm, good.exclMask⟩

/-- Settles O60: the fields as State.reset lists them, and the reset of that state. -/
theorem resetStateValues : Obligations.ResetStateValues :=
  ⟨rfl, rfl, rfl, rfl, rfl, rfl, rfl, rfl, rfl, rfl, rfl, rfl, rfl, rfl, rfl, rfl, rfl, rfl, resetMachine_reset⟩

end Sys2Proof.Machine
end

section
/-! SUPPORT. Reads and writes through the memory map, by what stands at the address (O1): what a write answers and what
an address reads as, one equation per kind of address. -/

namespace Sys2Proof.Machine

variable {s : State} {a : Word}

/-! ### A write, by the kind of address -/

theorem setByte_of_ram {p : Byte} (h : s.memKind a = .ram p) (v : Byte) :
    s.setByte a v = { s with mem := Memory.store s.mem (cellKey p a) v } := by
  simp only [State.setByte, h]; rfl

theorem setByte_of_rom {p : Byte} (h : s.memKind a = .rom p) (v : Byte) : s.setByte a v = s := by
  simp only [State.setByte, h]; rfl

theorem setByte_of_hole {w : Byte} (h : s.memKind a = .hole w) (v : Byte) : s.setByte a v = s := by
  simp only [State.setByte, h]; rfl

theorem setByte_of_select (h : s.memKind a = .select) (v : Byte) : s.setByte a v = { s with bank := v } := by
  simp only [State.setByte, h]; rfl

theorem setByte_of_external (h : s.memKind a = .external) (v : Byte) :
    s.setByte a v = { s with outside := s.outside ++ [(a, v)] } := by
  simp only [State.setByte, h]; rfl

/-! ### A read, by the kind of address -/

theorem getByte_of_rom {p : Byte} (h : s.memKind a = .rom p) : s.getByte a = s.planeByte p a := by
  simp only [State.getByte, h]

theorem getByte_of_hole {w : Byte} (h : s.memKind a = .hole w) : s.getByte a = w := by simp only [State.getByte, h]

theorem getByte_of_select (h : s.memKind a = .select) : s.getByte a = s.bank := by simp only [State.getByte, h]

/-- What is recorded outside is read at addresses outside alone. -/
theorem getByte_withOutside (s : State) (written : List (Word × Byte)) (x : Word) (h : s.memKind x ≠ .external) :
    { s with outside := written }.getByte x = s.getByte x := by
  have hkind : { s with outside := written }.memKind x = s.memKind x := rfl
  unfold State.getByte
  rw [hkind]
  cases hx : s.memKind x with
  | external => exact absurd hx h
  | ram | rom | hole | select => rfl

/-- A byte stored in a plane changes no other byte of that plane and none of another plane. -/
theorem planeByte_store_other (s : State) (p : Byte) (a : Word) (v q : Byte) (x : Word) (h : q ≠ p ∨ x ≠ a) :
    { s with mem := Memory.store s.mem (cellKey p a) v }.planeByte q x = s.planeByte q x := by
  have hkey : cellKey q x ≠ cellKey p a := fun e => by
    obtain ⟨hq, hx⟩ := cellKey_inj q p x a e
    exact h.elim (absurd hq) (absurd hx)
  simp only [State.planeByte, stored_store_other _ _ _ _ hkey]

/-! ### The statement's clauses -/

/-- With the empty map every address reads as the last byte written to it (R208). -/
theorem getByte_setByte_flat (s : State) (a : Word) (v : Byte) (h : s.par.map = []) (x : Word) :
    (s.setByte a v).getByte x = if x = a then v else s.getByte x := by
  have hram : s.isRam a = true := isRam_of_flat s a h
  rw [getByte_setByte s a x v (isStorage_of_isRam s a hram)]
  simp only [hram, and_true]

/-- A write to read-write storage changes one byte of one plane. -/
theorem setByte_ram_result {p : Byte} (h : s.memKind a = .ram p) (v : Byte) :
    (s.setByte a v).getByte a = v ∧ (∀ x, x ≠ a → (s.setByte a v).getByte x = s.getByte x) ∧
      ∀ (q : Byte) (x : Word), (q ≠ p ∨ x ≠ a) → (s.setByte a v).planeByte q x = s.planeByte q x := by
  have hram : s.isRam a = true := by simp only [State.isRam, h]
  refine ⟨getByte_setByte_same s a v hram, fun x hx => ?_, fun q x hother => ?_⟩
  · exact getByte_setByte_other s a x v (isStorage_of_isRam s a hram) hx
  · rw [setByte_of_ram h]
    exact planeByte_store_other s p a v q x hother

/-- A write to the bank latch selects the bank, and the map is read under it from then on. -/
theorem setByte_select_result (h : s.memKind a = .select) (v : Byte) :
    s.getByte a = s.bank ∧ (s.setByte a v).bank = v ∧ (s.setByte a v).outside = s.outside ∧
      (∀ q x, (s.setByte a v).planeByte q x = s.planeByte q x) ∧
      ∀ x, (s.setByte a v).memKind x = memKindAt s.par.map v x := by
  rw [setByte_of_select h]
  exact ⟨getByte_of_select h, rfl, rfl, fun _ _ => rfl, fun _ => rfl⟩

/-- A write outside is recorded, and no address of the machine's own reads otherwise for it. -/
theorem setByte_external_result (h : s.memKind a = .external) (v : Byte) :
    (s.setByte a v).outside = s.outside ++ [(a, v)] ∧ (s.setByte a v).bank = s.bank ∧
      (∀ q x, (s.setByte a v).planeByte q x = s.planeByte q x) ∧
      ∀ x, s.memKind x ≠ .external → (s.setByte a v).getByte x = s.getByte x := by
  rw [setByte_of_external h]
  exact ⟨rfl, rfl, fun _ _ => rfl, getByte_withOutside s _⟩

/-- Settles O1: a write by the kind of its address, and a list of writes by `getByte_afterWrites`. -/
theorem memoryFollowsTheMap : Obligations.MemoryFollowsTheMap :=
  ⟨fun s a v =>
    ⟨getByte_setByte_flat s a v,
      fun _ hram => setByte_ram_result hram v,
      fun _ hrom => ⟨getByte_of_rom hrom, setByte_of_rom hrom v⟩,
      fun _ hhole => ⟨getByte_of_hole hhole, setByte_of_hole hhole v⟩,
      fun hselect => setByte_select_result hselect v,
      fun hexternal => setByte_external_result hexternal v⟩,
    getByte_afterWrites⟩

end Sys2Proof.Machine
end

section
/-! SUPPORT. Port reads and writes among platform devices that do nothing else when they are called (O31): what one
device does, and by induction along the registrations what all of them do. -/

namespace Sys2Proof.Machine

/-! ### Devices without a reaction -/

/-- A key that a table does not list has no actions to run. -/
theorem runActions_unlisted {κ : Type} [BEq κ] {table : List (κ × List Action)} {key : κ}
    (h : table.lookup key = none) (notify : PinId → Bus → Option Bus) (asm : Assembly) (now : Int) (dev : Nat)
    (bus : Bus) : runActions notify asm now dev (actionsFor table key) bus = some bus := by
  simp only [actionsFor, h, Option.getD_none, runActions, seqM]

/-- Recording a call changes no level that an action can name. -/
theorem evalLevel_record (asm : Assembly) (dev : Nat) (bus : Bus) (c : PlatformCall) (e : LevelExpr) :
    evalLevel asm dev (bus.record c) e = evalLevel asm dev bus e := by
  cases e <;> rfl

/-- Recording a call changes no byte that a device shows. -/
theorem evalByte_record (asm : Assembly) (dev : Nat) (bus : Bus) (c : PlatformCall) (byte : ByteExpr) :
    evalByte asm dev (bus.record c) byte = evalByte asm dev bus byte := by
  cases byte with
  | const v => rfl
  | bits levels =>
    have hlevel : evalLevel asm dev (bus.record c) = evalLevel asm dev bus := funext (evalLevel_record asm dev bus c)
    simp only [evalByte, hlevel]

/-! ### Port reads -/

/-- A platform device that shows a byte at a port and does nothing else when it is asked there. -/
def ShowsQuietly (asm : Assembly) (port : Byte) (bus : Bus) (dev : Nat) (w : Byte) : Prop :=
  (∃ r, kindOf asm dev = some (.platform r) ∧ r.onInput.lookup port = none) ∧
    ∃ shows out byte, bus.fields? dev = some (.platform shows out) ∧ shows.lookup port = some byte ∧
      w = evalByte asm dev bus byte

/-- What a device shows does not depend on the record of calls. -/
theorem ShowsQuietly.record {asm : Assembly} {port : Byte} {bus : Bus} {dev : Nat} {w : Byte}
    (h : ShowsQuietly asm port bus dev w) (c : PlatformCall) : ShowsQuietly asm port (bus.record c) dev w := by
  obtain ⟨hkind, shows, out, byte, hfields, hlookup, hw⟩ := h
  exact ⟨hkind, shows, out, byte, hfields, hlookup, hw.trans (evalByte_record asm dev bus c byte).symm⟩

/-- Asking such a device gives the byte it shows and is recorded. -/
theorem deviceInput_of_showsQuietly {asm : Assembly} {port : Byte} {bus : Bus} {dev : Nat} {w : Byte}
    (h : ShowsQuietly asm port bus dev w) (now : Int) :
    deviceInput asm now dev port bus = some (w, bus.record (.input dev port)) := by
  obtain ⟨⟨r, hkind, hquiet⟩, shows, out, byte, hfields, hlookup, hw⟩ := h.record (.input dev port)
  have hshown : contribution asm dev port (bus.record (.input dev port)) = (w, bus.record (.input dev port)) := by
    simp only [contribution, hfields, hlookup, hw]
  simp only [deviceInput, hshown, hkind, runActions_unlisted hquiet, Option.map_some]

/-- Asking a list of such devices ANDs what they show and records the calls in order (R220). -/
theorem andInputs_of_showsQuietly (asm : Assembly) (now : Int) (port : Byte) (shown : Nat → Byte) (devs : List Nat)
    (acc : Byte) (bus : Bus) (h : ∀ dev ∈ devs, ShowsQuietly asm port bus dev (shown dev)) :
    andInputs asm now port devs acc bus =
      some (devs.foldl (fun acc dev => acc &&& shown dev) acc,
        { bus with calls := bus.calls ++ devs.map fun dev => .input dev port }) := by
  induction devs generalizing acc bus with
  | nil => simp only [andInputs, List.foldl_nil, List.map_nil, List.append_nil]
  | cons dev devs ih =>
    obtain ⟨hdev, hdevs⟩ := List.forall_mem_cons.mp h
    simp only [andInputs, deviceInput_of_showsQuietly hdev now]
    rw [ih (acc &&& shown dev) (bus.record (.input dev port)) fun d hd => (hdevs d hd).record _]
    simp only [Bus.record, List.append_assoc, List.singleton_append, List.foldl_cons, List.map_cons]

/-! ### Port writes -/

/-- A bus after calls that were recorded and changed no event, no request and no pin. -/
structure OnlyCalled (bus bus' : Bus) (made : List PlatformCall) : Prop where
  calls : bus'.calls = bus.calls ++ made
  events : bus'.events = bus.events
  intReq : bus'.intReq = bus.intReq
  rstReq : bus'.rstReq = bus.rstReq
  level : ∀ p : PinId, bus'.level p = bus.level p

namespace OnlyCalled

variable {bus bus' bus'' : Bus} {made made' : List PlatformCall}

theorem refl (bus : Bus) : OnlyCalled bus bus [] := ⟨(List.append_nil _).symm, rfl, rfl, rfl, fun _ => rfl⟩

theorem trans (h : OnlyCalled bus bus' made) (h' : OnlyCalled bus' bus'' made') :
    OnlyCalled bus bus'' (made ++ made') where
  calls := by rw [h'.calls, h.calls, List.append_assoc]
  events := h'.events.trans h.events
  intReq := h'.intReq.trans h.intReq
  rstReq := h'.rstReq.trans h.rstReq
  level p := (h'.level p).trans (h.level p)

theorem record (bus : Bus) (c : PlatformCall) : OnlyCalled bus (bus.record c) [c] := ⟨rfl, rfl, rfl, rfl, fun _ => rfl⟩

/-- The byte that a device keeps is among its own fields. -/
theorem setFields (h : OnlyCalled bus bus' made) (dev : Nat) (fields : DeviceFields) :
    OnlyCalled bus (bus'.setFields dev fields) made :=
  ⟨h.calls, h.events, h.intReq, h.rstReq, fun p => (level_setFields bus' dev fields p).trans (h.level p)⟩

end OnlyCalled

/-- A platform device without a reaction at the port takes the byte, and the call is recorded. -/
theorem deviceOutput_of_quiet {asm : Assembly} {port : Byte} {dev : Nat}
    (h : ∃ r, kindOf asm dev = some (.platform r) ∧ r.onOutput.lookup port = none) (now : Int) (v : Byte) (bus : Bus) :
    ∃ bus', deviceOutput asm now port v dev bus = some bus' ∧ OnlyCalled bus bus' [.output dev port v] := by
  obtain ⟨r, hkind, hquiet⟩ := h
  have hrecord := OnlyCalled.record bus (.output dev port v)
  simp only [deviceOutput, hkind]
  split
  case h_1 r' shows out heq _ =>
    cases heq
    exact ⟨_, runActions_unlisted hquiet _ _ _ _ _, hrecord.setFields dev _⟩
  case h_2 => exact ⟨_, rfl, hrecord⟩

/-- So does a list of them, in order (R221). -/
theorem seqM_deviceOutput_of_quiet (asm : Assembly) (now : Int) (port v : Byte) (devs : List Nat) (bus : Bus)
    (h : ∀ dev ∈ devs, ∃ r, kindOf asm dev = some (.platform r) ∧ r.onOutput.lookup port = none) :
    ∃ bus', seqM (deviceOutput asm now port v) devs bus = some bus' ∧
      OnlyCalled bus bus' (devs.map fun dev => .output dev port v) := by
  induction devs generalizing bus with
  | nil => exact ⟨bus, rfl, OnlyCalled.refl bus⟩
  | cons dev devs ih =>
    obtain ⟨hdev, hdevs⟩ := List.forall_mem_cons.mp h
    obtain ⟨mid, hmid, firstCall⟩ := deviceOutput_of_quiet hdev now v bus
    obtain ⟨bus', hrest, restCalls⟩ := ih mid hdevs
    exact ⟨bus', by simp only [seqM, hmid, hrest], firstCall.trans restCalls⟩

/-! ### The statement -/

/-- A byte shown bit by bit has the levels it names, and 1 beyond them (R129). -/
theorem evalByte_bits_getLsbD (asm : Assembly) (bus : Bus) (dev : Nat) (levels : List LevelExpr) (i : Nat) (hi : i < 8) :
    (evalByte asm dev bus (.bits levels)).getLsbD i = ((levels[i]?).map (evalLevel asm dev bus)).getD true := by
  rw [evalByte, byteOfBits_getLsbD _ i hi, List.getElem?_map]

/-- Settles O31, by induction along the sources and along the sinks of the port. -/
theorem portsReachEveryDevice : Obligations.PortsReachEveryDevice := by
  intro asm now port v bus shown
  refine ⟨andInputs_of_showsQuietly asm now port shown _ 0xFF#8 bus, fun hquiet => ?_, evalByte_bits_getLsbD asm bus⟩
  obtain ⟨bus', hwrite, called⟩ := seqM_deviceOutput_of_quiet asm now port v _ bus hquiet
  exact ⟨bus', hwrite, called.calls, called.events, called.intReq, called.rstReq, called.level⟩

end Sys2Proof.Machine
end

section
/-! SUPPORT. The decoder and the encoder as one relation between an instruction and three bytes (O33, O34): an instruction
is what the bytes decode to exactly if it is well-formed and they spell it. First the fields of an opcode, then the
columns of the opcode table, then the two directions and the lists of bytes. -/

namespace Sys2Proof

open Machine (join_hi_lo loByte_join hiByte_join)

/-! ### The fields of an opcode (R302, R308) -/

section Fields

variable (q : BitVec 2) (d s : BitVec 3)

@[simp] theorem fieldQ_append : fieldQ (q ++ d ++ s) = q :=
  (BitVec.extractLsb'_append_eq_of_le (by decide)).trans BitVec.extractLsb'_append_eq_left

@[simp] theorem fieldD_append : fieldD (q ++ d ++ s) = d :=
  (BitVec.extractLsb'_append_eq_of_le (by decide)).trans BitVec.extractLsb'_append_eq_right

@[simp] theorem fieldS_append : fieldS (q ++ d ++ s) = s := BitVec.extractLsb'_append_eq_right

/-- An opcode is put together from its three fields. -/
theorem append_fields (op : Byte) : fieldQ op ++ fieldD op ++ fieldS op = op := by
  simp only [fieldQ, fieldD, fieldS, BitVec.extractLsb'_append_extractLsb'_eq_extractLsb', BitVec.extractLsb'_eq_self]

end Fields

/-- A three-bit field is one of eight codes. -/
theorem codeCases {motive : BitVec 3 → Prop} (code0 : motive 0#3) (code1 : motive 1#3) (code2 : motive 2#3)
    (code3 : motive 3#3) (code4 : motive 4#3) (code5 : motive 5#3) (code6 : motive 6#3) (code7 : motive 7#3)
    (d : BitVec 3) : motive d := by
  have hd : d = 0#3 ∨ d = 1#3 ∨ d = 2#3 ∨ d = 3#3 ∨ d = 4#3 ∨ d = 5#3 ∨ d = 6#3 ∨ d = 7#3 := by decide +revert
  rcases hd with rfl | rfl | rfl | rfl | rfl | rfl | rfl | rfl <;> assumption

/-- A two-bit field, the quadrant or the slot of `*CALL`, is one of four codes. -/
theorem codeCases2 {motive : BitVec 2 → Prop} (code0 : motive 0#2) (code1 : motive 1#2) (code2 : motive 2#2)
    (code3 : motive 3#2) (q : BitVec 2) : motive q := by
  have hq : q = 0#2 ∨ q = 1#2 ∨ q = 2#2 ∨ q = 3#2 := by decide +revert
  rcases hq with rfl | rfl | rfl | rfl <;> assumption

/-! ### Register codes (R303) -/

@[simp] theorem regOf_code (r : Reg) : regOf r.code = some r := by cases r <;> rfl

@[simp] theorem regOf_memory : regOf 0b110#3 = none := rfl

/-- A register code is a register's or M's. -/
theorem regCodeCases {motive : BitVec 3 → Prop} (reg : ∀ r : Reg, motive r.code) (memory : motive 0b110#3)
    (code : BitVec 3) : motive code := by
  cases code using codeCases with
  | code0 => exact reg .b
  | code1 => exact reg .c
  | code2 => exact reg .d
  | code3 => exact reg .e
  | code4 => exact reg .h
  | code5 => exact reg .l
  | code6 => exact memory
  | code7 => exact reg .a

@[simp] theorem regOrM_code (x : Reg) (r : Reg → Instr) (m : Instr) : regOrM x.code r m = r x := by
  simp only [regOrM, regOf_code]

/-! ### Spelling -/

/-- Three bytes spell a well-formed instruction: the first is its opcode, and those after it begin with its operand
bytes (R302). -/
structure Spells (op b1 b2 : Byte) (i : Instr) : Prop where
  wf : i.wf = true
  opcode : i.opcode = op
  operands : i.operandBytes = [b1, b2].take (i.length - 1)

/-- An immediate word is read from its bytes, low byte first (R306). -/
theorem eq_join_of_bytes {nn : Word} {b1 b2 : Byte} (h : [loByte nn, hiByte nn] = [b1, b2]) : nn = join b2 b1 := by
  obtain ⟨rfl, rfl⟩ : loByte nn = b1 ∧ hiByte nn = b2 := by simpa using h
  exact (join_hi_lo nn).symm

/-- An immediate byte is the first after the opcode. -/
theorem eq_of_byte {n b1 b2 : Byte} (h : [n] = [b1, b2].take 1) : n = b1 := by simpa using h

/-! ### What the decoder answers is spelled by the bytes it read

Each table of the decoder, over its code; the immediate byte is the low byte of the immediate word. -/

section Tables

variable (d s : BitVec 3) (nn : Word)

theorem spells_regOrM {op : BitVec 3 → Byte} {r : Reg → Instr} {m : Instr} {b1 b2 : Byte}
    (reg : ∀ x : Reg, Spells (op x.code) b1 b2 (r x)) (memory : Spells (op 0b110#3) b1 b2 m) :
    Spells (op d) b1 b2 (regOrM d r m) := by
  cases d using regCodeCases with
  | reg x => rw [regOrM_code]; exact reg x
  | memory => exact memory

theorem spells_decodeDirect : Spells (opUnary d 0b010#3) (loByte nn) (hiByte nn) (decodeDirect d nn) := by
  cases d using codeCases <;> exact ⟨rfl, rfl, rfl⟩

theorem spells_decodeAccumulator (b1 b2 : Byte) : Spells (opUnary d 0b111#3) b1 b2 (decodeAccumulator d) := by
  cases d using codeCases <;> exact ⟨rfl, rfl, rfl⟩

theorem spells_decodeReturnIf (b1 b2 : Byte) : Spells (opHigh d 0b000#3) b1 b2 (decodeReturnIf d) := by
  cases d using codeCases <;> exact ⟨rfl, rfl, rfl⟩

theorem spells_decodePopRet (b1 b2 : Byte) : Spells (opHigh d 0b001#3) b1 b2 (decodePopRet d) := by
  cases d using codeCases <;> exact ⟨rfl, rfl, rfl⟩

theorem spells_decodeJumpIf : Spells (opHigh d 0b010#3) (loByte nn) (hiByte nn) (decodeJumpIf d nn) := by
  cases d using codeCases <;> exact ⟨rfl, rfl, rfl⟩

theorem spells_decodeMachine :
    Spells (opHigh d 0b011#3) (loByte nn) (hiByte nn) (decodeMachine d (loByte nn) nn) := by
  cases d using codeCases <;> exact ⟨rfl, rfl, rfl⟩

theorem spells_decodeCallIf : Spells (opHigh d 0b100#3) (loByte nn) (hiByte nn) (decodeCallIf d nn) := by
  cases d using codeCases <;> exact ⟨rfl, rfl, rfl⟩

theorem spells_decodePushCall : Spells (opHigh d 0b101#3) (loByte nn) (hiByte nn) (decodePushCall d nn) := by
  cases d using codeCases <;> exact ⟨rfl, rfl, rfl⟩

theorem spells_decodeAluImm (b1 b2 : Byte) : Spells (opHigh d 0b110#3) b1 b2 (decodeAluImm d b1) := by
  cases d using codeCases <;> exact ⟨rfl, rfl, rfl⟩

theorem spells_decodeQ0 :
    Spells (opUnary d s) (loByte nn) (hiByte nn) (decodeQ0 (opUnary d s) (loByte nn) nn) := by
  simp only [decodeQ0, opUnary, fieldD_append, fieldS_append]
  cases s using codeCases with
  | code0 | code1 | code3 => cases d using codeCases <;> exact ⟨rfl, rfl, rfl⟩
  | code2 => exact spells_decodeDirect d nn
  | code4 | code5 | code6 =>
    exact spells_regOrM (op := (opUnary · _)) d (fun _ => ⟨rfl, rfl, rfl⟩) ⟨rfl, rfl, rfl⟩
  | code7 => exact spells_decodeAccumulator d _ _

theorem spells_decodeMov (b1 b2 : Byte) : Spells (opMov d s) b1 b2 (decodeMov (opMov d s)) := by
  simp only [decodeMov, opMov, fieldD_append, fieldS_append]
  cases d using regCodeCases with
  | reg dst =>
    cases s using regCodeCases with
    | reg src => simp only [regOf_code]; exact ⟨rfl, rfl, rfl⟩
    | memory => simp only [regOf_code, regOf_memory]; exact ⟨rfl, rfl, rfl⟩
  | memory =>
    cases s using regCodeCases with
    | reg src => simp only [regOf_code, regOf_memory]; exact ⟨rfl, rfl, rfl⟩
    | memory => exact ⟨rfl, rfl, rfl⟩

theorem spells_decodeAlu (b1 b2 : Byte) : Spells (opAlu d s) b1 b2 (decodeAlu (opAlu d s)) := by
  simp only [decodeAlu, opAlu, fieldD_append, fieldS_append]
  cases d using codeCases <;>
    exact spells_regOrM (op := opAlu _) s (fun _ => ⟨rfl, rfl, rfl⟩) ⟨rfl, rfl, rfl⟩

theorem spells_decodeQ3 :
    Spells (opHigh d s) (loByte nn) (hiByte nn) (decodeQ3 (opHigh d s) (loByte nn) nn) := by
  simp only [decodeQ3, opHigh, fieldD_append, fieldS_append]
  cases s using codeCases with
  | code0 => exact spells_decodeReturnIf d _ _
  | code1 => exact spells_decodePopRet d _ _
  | code2 => exact spells_decodeJumpIf d nn
  | code3 => exact spells_decodeMachine d nn
  | code4 => exact spells_decodeCallIf d nn
  | code5 => exact spells_decodePushCall d nn
  | code6 => exact spells_decodeAluImm d _ _
  | code7 => exact ⟨rfl, rfl, rfl⟩

end Tables

/-- Any three bytes spell what they decode to, quadrant by quadrant. -/
theorem spells_decodeBytes (op b1 b2 : Byte) : Spells op b1 b2 (decodeBytes op b1 b2) := by
  obtain ⟨nn, rfl, rfl⟩ : ∃ nn : Word, b1 = loByte nn ∧ b2 = hiByte nn :=
    ⟨join b2 b1, (loByte_join _ _).symm, (hiByte_join _ _).symm⟩
  rw [decodeBytes, join_hi_lo, ← append_fields op, fieldQ_append]
  cases fieldQ op using codeCases2 with
  | code0 => exact spells_decodeQ0 _ _ nn
  | code1 => exact spells_decodeMov _ _ _ _
  | code2 => exact spells_decodeAlu _ _ _ _
  | code3 => exact spells_decodeQ3 _ _ nn

/-! ### The bytes that spell an instruction decode to it -/

/-- An instruction is read back from its opcode: the immediate is that of the bytes after it, and a register, a pair or
a slot number is read from the opcode's own fields. The opcode holds no immediate, which is dropped from it first. -/
theorem Spells.decodeBytes_eq {op b1 b2 : Byte} {i : Instr} (h : Spells op b1 b2 i) : decodeBytes op b1 b2 = i := by
  obtain ⟨wf, rfl, operands⟩ := h
  cases i with
  | movRR dst src => cases dst <;> cases src <;> rfl
  | movRM r | movMR r | addR r | adcR r | subR r | sbbR r | anaR r | xraR r | oraR r | cmpR r | inrR r | dcrR r =>
    cases r <;> rfl
  | inx pr | dcx pr | dad pr => cases pr <;> rfl
  | ldax pr | stax pr =>
    cases pr with
    | bc | de => rfl
    | hl | sp => cases wf
  | pushRp pr | popRp pr =>
    cases pr with
    | bc | de | hl => rfl
    | sp => cases wf
  | rst n => cases n using codeCases <;> rfl
  | mviR r n => obtain rfl := eq_of_byte operands; cases r <;> simp only [Instr.opcode] <;> rfl
  | mviM n | adi n | aci n | sui n | sbi n | ani n | xri n | ori n | cpi n | inp n | out n =>
    obtain rfl := eq_of_byte operands; simp only [Instr.opcode]; rfl
  | lxi pr nn => obtain rfl := eq_join_of_bytes operands; cases pr <;> simp only [Instr.opcode] <;> rfl
  | lda nn | sta nn | lhld nn | shld nn | jmp nn | jnz nn | jz nn | jnc nn | jc nn | jpo nn | jpe nn | jp nn | jm nn
  | call nn | cnz nn | cz nn | cnc nn | cc nn | cpo nn | cpe nn | cp nn | cm nn | undefJmp nn =>
    obtain rfl := eq_join_of_bytes operands; simp only [Instr.opcode]; rfl
  | undefNop x =>
    cases x using codeCases with
    | code0 => cases wf
    | code1 | code2 | code3 | code4 | code5 | code6 | code7 => rfl
  | undefCall x nn =>
    obtain rfl := eq_join_of_bytes operands
    cases x using codeCases2 with
    | code0 => cases wf
    | code1 | code2 | code3 => simp only [Instr.opcode]; rfl
  | xchg | addM | adcM | subM | sbbM | inrM | dcrM | daa | anaM | xraM | oraM | cmpM | rlc | rrc | ral | rar | cma | cmc
  | stc | ret | rnz | rz | rnc | rc | rpo | rpe | rp | rm | pchl | pushPsw | popPsw | xthl | sphl | ei | di | nop | hlt
  | undefRet => rfl

/-- Decoding, as one relation between bytes and an instruction. -/
theorem decodeBytes_eq_iff {op b1 b2 : Byte} {i : Instr} : decodeBytes op b1 b2 = i ↔ Spells op b1 b2 i :=
  ⟨fun h => h ▸ spells_decodeBytes op b1 b2, Spells.decodeBytes_eq⟩

/-! ### Lists of bytes -/

/-- The length counts the opcode and the operand bytes (R302). -/
theorem length_eq_operandBytes (i : Instr) : i.length = i.operandBytes.length + 1 := by cases i <;> rfl

theorem length_operandBytes_le (i : Instr) : i.operandBytes.length ≤ 2 := by
  cases i <;> simp [Instr.operandBytes]

theorem Spells.encode_eq {op b1 b2 : Byte} {i : Instr} (h : Spells op b1 b2 i) :
    encode i = [op, b1, b2].take i.length := by
  rw [encode, h.opcode, h.operands, length_eq_operandBytes, Nat.add_sub_cancel, List.take_succ_cons]

/-- At most two bytes are read back from the first two of any list they begin, absent bytes read as 0. -/
theorem eq_take_of_length_le_two (l rest : List Byte) (h : l.length ≤ 2) :
    l = [(l ++ rest)[0]?.getD 0#8, (l ++ rest)[1]?.getD 0#8].take l.length := by
  match l, h with
  | [], _ => rfl
  | [_], _ => rfl
  | [_, _], _ => rfl

/-- A well-formed instruction is spelled by its encoding, whatever bytes follow. -/
theorem spells_encode (i : Instr) (rest : List Byte) (h : i.wf = true) :
    Spells i.opcode ((i.operandBytes ++ rest)[0]?.getD 0#8) ((i.operandBytes ++ rest)[1]?.getD 0#8) i where
  wf := h
  opcode := rfl
  operands := by
    rw [length_eq_operandBytes, Nat.add_sub_cancel]
    exact eq_take_of_length_le_two _ rest (length_operandBytes_le i)

/-! ### The statements -/

/-- Settles O33: the instruction's own bytes spell it, and what follows them is left. -/
theorem decodeEncodeRoundTrip : Obligations.DecodeEncodeRoundTrip := by
  intro i rest h
  have enough : ¬ (i.operandBytes ++ rest).length + 1 < i.length := by
    rw [length_eq_operandBytes, List.length_append]; omega
  have left : (i.operandBytes ++ rest).drop (i.length - 1) = rest := by
    rw [length_eq_operandBytes, Nat.add_sub_cancel, List.drop_left]
  simp only [encode, List.cons_append, decode, decodeBytes_eq_iff.mpr (spells_encode i rest h), enough, if_false, left]

/-- Settles O34: the bytes read spell the instruction. -/
theorem encodeDecodedBytes : Obligations.EncodeDecodedBytes := fun op b1 b2 =>
  have spelled : Spells op b1 b2 (decodeBytes op b1 b2) := decodeBytes_eq_iff.mp rfl
  ⟨spelled.wf, spelled.encode_eq⟩

/-- Settles O35, by running the decoder on the seven words. -/
theorem knownWordsDecode : Obligations.KnownWordsDecode := ⟨rfl, rfl, rfl, rfl, rfl, rfl, rfl⟩

end Sys2Proof
end

section
/-! SUPPORT. The data transfer instructions (O2 to O6). An instruction of the family makes some writes of registers,
pairs or bytes and then goes on to the next instruction: first what such writes leave and what going on adds, then one
result for each shape of write, then the statements. -/

namespace Sys2Proof.Machine

/-! ### The opcode table -/

/-- A row of the opcode table; the length follows from the encoding (R302). -/
theorem row_of_encode {i : Instr} {bytes : List Byte} {cls : Byte} {cost : Nat × Nat} (bytesEq : encode i = bytes)
    (clsEq : tableClass i = cls) (costEq : defaultCost i = cost) : Row i bytes cls cost := by
  have lengthEq : i.length = bytes.length := by
    rw [← bytesEq, length_eq_operandBytes, encode, List.length_cons]
  exact ⟨bytesEq, lengthEq, clsEq, costEq⟩

/-! ### What writes of registers, pairs and bytes leave -/

/-- What the action of a data transfer has not touched when it comes to move PC: F, PC, CYC and the engine. -/
structure TransferFrame (s u : State) : Prop where
  f : u.f = s.f
  pc : u.pc = s.pc
  cyc : u.cyc = s.cyc
  engine : KeepsEngine s u

namespace TransferFrame

variable {s u : State}

theorem refl (s : State) : TransferFrame s s := ⟨rfl, rfl, rfl, rfl, rfl, rfl, rfl, rfl, rfl, rfl⟩

theorem setReg (h : TransferFrame s u) (r : Reg) (v : Byte) : TransferFrame s (u.setReg r v) where
  f := (setReg_f u r v).trans h.f
  pc := (setReg_pc u r v).trans h.pc
  cyc := (setReg_cyc u r v).trans h.cyc
  engine := by simpa [KeepsEngine] using h.engine

theorem setPair (h : TransferFrame s u) (p : Pair) (v : Word) : TransferFrame s (u.setPair p v) where
  f := (setPair_f u p v).trans h.f
  pc := (setPair_pc u p v).trans h.pc
  cyc := (setPair_cyc u p v).trans h.cyc
  engine := by simpa [KeepsEngine] using h.engine

theorem setByte (h : TransferFrame s u) (x : Word) (v : Byte) : TransferFrame s (u.setByte x v) :=
  ⟨h.f, h.pc, h.cyc, h.engine⟩

theorem par (h : TransferFrame s u) : u.par = s.par := by
  obtain ⟨-, -, -, -, hpar, -, -⟩ := h.engine
  exact hpar

/-- Going on to the next instruction moves PC past this one and pays for it. -/
theorem advances (h : TransferFrame s u) (i : Instr) : Advances s (u.next i) i i.length := by
  simp only [Advances, Pays, next_pc, next_cyc, h.pc, h.cyc, h.par, and_self]

/-- Nor does going on touch the engine. -/
theorem engine_next (h : TransferFrame s u) (i : Instr) : KeepsEngine s (u.next i) := h.engine

/-- An action that left MEM's state has written no memory. -/
theorem keepsMemory_next (h : TransferFrame s u) (hmem : MemoryIs s u) (i : Instr) : KeepsMemory s (u.next i) :=
  keepsMemory_of s (u.next i) hmem h.par

/-- An action that wrote the bytes listed, to addresses that differ, stores them. -/
theorem stores_next (h : TransferFrame s u) {ws : List (Word × Byte)} (hmem : MemoryIs (afterWrites s ws) u)
    (distinct : (ws.map (·.1)).Nodup) (i : Instr) : Stores s (u.next i) ws :=
  stores_of s (u.next i) ws hmem h.par distinct

end TransferFrame

theorem memoryIs_setReg (s : State) (r : Reg) (v : Byte) : MemoryIs s (s.setReg r v) := by simp [MemoryIs]

theorem memoryIs_setPair (s : State) (p : Pair) (v : Word) : MemoryIs s (s.setPair p v) := by simp [MemoryIs]

theorem MemoryIs.trans {s t u : State} (h : MemoryIs s t) (h' : MemoryIs t u) : MemoryIs s u := by
  obtain ⟨hmem, hbank, houtside⟩ := h
  obtain ⟨hmem', hbank', houtside'⟩ := h'
  exact ⟨hmem'.trans hmem, hbank'.trans hbank, houtside'.trans houtside⟩

@[simp] theorem setPair_a (s : State) (p : Pair) (v : Word) : (s.setPair p v).a = s.a := by cases p <;> rfl

@[simp] theorem next_pair (s : State) (i : Instr) (p : Pair) : (s.next i).pair p = s.pair p := by cases p <;> rfl

/-! ### The shapes of instruction -/

/-- An instruction whose action is one register write. -/
theorem loadsReg_setReg_next (s : State) (i : Instr) (r : Reg) (v : Byte) :
    LoadsReg s ((s.setReg r v).next i) i i.length r v := by
  have frame := (TransferFrame.refl s).setReg r v
  have others : KeepsRegsBut s ((s.setReg r v).next i) [r] := fun q hq => by
    rw [next_reg, reg_setReg_other s r q v (by simpa using hq)]
  exact ⟨by simp, others, by simp, frame.f, frame.keepsMemory_next (memoryIs_setReg s r v) i, frame.engine_next i,
    frame.advances i⟩

/-- An instruction whose action is one byte write. -/
theorem storesByte_setByte_next (s : State) (i : Instr) (x : Word) (v : Byte) :
    StoresByte s ((s.setByte x v).next i) i i.length x v := by
  have frame := (TransferFrame.refl s).setByte x v
  have stored : Stores s ((s.setByte x v).next i) [(x, v)] :=
    frame.stores_next (ws := [(x, v)]) ⟨rfl, rfl, rfl⟩ (List.nodup_singleton x) i
  exact ⟨stored, fun r _ => by simp, rfl, frame.f, frame.engine_next i, frame.advances i⟩

/-- An instruction whose action is one pair write. -/
theorem loadsPair_setPair_next (s : State) (i : Instr) (p : Pair) (v : Word) :
    LoadsPair s ((s.setPair p v).next i) i i.length p v := by
  have frame := (TransferFrame.refl s).setPair p v
  have others : ∀ q, q ≠ p → ((s.setPair p v).next i).pair q = s.pair q := fun q hq => by
    rw [next_pair, pair_setPair_other s p q v hq]
  exact ⟨by simp, others, by simp, frame.f, frame.keepsMemory_next (memoryIs_setPair s p v) i, frame.engine_next i,
    frame.advances i⟩

/-! ### The statements -/

/-- Settles O2: each form writes one register, A among them. -/
theorem registerLoadResult : Obligations.RegisterLoadResult := fun s dst src n nn =>
  ⟨⟨_, rfl, loadsReg_setReg_next s (.movRR dst src) dst (s.reg src)⟩,
    ⟨_, rfl, loadsReg_setReg_next s (.movRM dst) dst s.operandM⟩,
    ⟨_, rfl, loadsReg_setReg_next s (.mviR dst n) dst n⟩,
    ⟨_, rfl, loadsReg_setReg_next s (.lda nn) .a (s.getByte nn)⟩,
    ⟨_, rfl, loadsReg_setReg_next s (.ldax .bc) .a (s.getByte (s.pair .bc))⟩,
    ⟨_, rfl, loadsReg_setReg_next s (.ldax .de) .a (s.getByte (s.pair .de))⟩,
    row_of_encode rfl rfl rfl, row_of_encode rfl rfl rfl, row_of_encode rfl rfl rfl, row_of_encode rfl rfl rfl,
    row_of_encode rfl rfl rfl, row_of_encode rfl rfl rfl⟩

/-- Settles O3: each form writes one byte. -/
theorem storeByteResult : Obligations.StoreByteResult := fun s src n nn =>
  ⟨⟨_, rfl, storesByte_setByte_next s (.movMR src) s.hl (s.reg src)⟩,
    ⟨_, rfl, storesByte_setByte_next s (.mviM n) s.hl n⟩,
    ⟨_, rfl, storesByte_setByte_next s (.sta nn) nn s.a⟩,
    ⟨_, rfl, storesByte_setByte_next s (.stax .bc) (s.pair .bc) s.a⟩,
    ⟨_, rfl, storesByte_setByte_next s (.stax .de) (s.pair .de) s.a⟩,
    row_of_encode rfl rfl rfl, row_of_encode rfl rfl rfl, row_of_encode rfl rfl rfl, row_of_encode rfl rfl rfl,
    row_of_encode rfl rfl rfl⟩

/-- Settles O4: one pair write, read back half by half. -/
theorem pairImmediateResult : Obligations.PairImmediateResult := by
  intro s pr nn
  refine ⟨⟨_, rfl, loadsPair_setPair_next s (.lxi pr nn) pr nn, ?bc, ?de, ?hl, ?sp⟩, row_of_encode rfl rfl rfl⟩
  case bc | de | hl => rintro rfl; exact ⟨rfl, rfl⟩
  case sp => rintro rfl; rfl

/-- `LHLD` as two register writes, both bytes read before them (R409). -/
theorem exec_lhld (s : State) (nn : Word) :
    exec (.lhld nn) s =
      .next (((s.setReg .l (s.getByte nn)).setReg .h (s.getByte (nn + 1))).next (.lhld nn)) := rfl

/-- Settles O5: `LHLD` writes two registers, `SHLD` two bytes whose addresses differ. -/
theorem directPairResult : Obligations.DirectPairResult := by
  intro s nn
  refine ⟨⟨_, exec_lhld s nn, rfl, rfl, ?_⟩, ⟨_, rfl, ?_⟩, row_of_encode rfl rfl rfl, row_of_encode rfl rfl rfl⟩
  · have frame := ((TransferFrame.refl s).setReg .l (s.getByte nn)).setReg .h (s.getByte (nn + 1))
    have memory := (memoryIs_setReg s .l (s.getByte nn)).trans (memoryIs_setReg _ .h (s.getByte (nn + 1)))
    refine ⟨fun r hr => ?_, rfl, frame.f, frame.keepsMemory_next memory _, frame.engine_next _, frame.advances _⟩
    obtain ⟨hh, hl⟩ : r ≠ .h ∧ r ≠ .l := by simpa using hr
    rw [next_reg, reg_setReg_other _ _ _ _ hh, reg_setReg_other _ _ _ _ hl]
  · have frame := ((TransferFrame.refl s).setByte nn s.l).setByte (nn + 1) s.h
    have distinct : ([(nn, s.l), (nn + 1, s.h)].map (·.1)).Nodup := by simp
    exact ⟨frame.stores_next ⟨rfl, rfl, rfl⟩ distinct _, fun r _ => by simp, rfl, frame.f, frame.engine_next _,
      frame.advances _⟩

/-- Settles O6: two pair writes, whose halves are those of the other pair. -/
theorem exchangeResult : Obligations.ExchangeResult := by
  intro s
  have frame := ((TransferFrame.refl s).setPair .hl (s.pair .de)).setPair .de (s.pair .hl)
  have memory := (memoryIs_setPair s .hl (s.pair .de)).trans (memoryIs_setPair _ .de (s.pair .hl))
  refine ⟨⟨_, rfl, hiByte_join s.d s.e, loByte_join s.d s.e, hiByte_join s.h s.l, loByte_join s.h s.l, fun r hr => ?_,
    rfl, frame.f, frame.keepsMemory_next memory _, frame.engine_next _, frame.advances _⟩, row_of_encode rfl rfl rfl⟩
  cases r with
  | b | c | a => rfl
  | d | e | h | l => exact absurd (by decide) hr

end Sys2Proof.Machine
end

section
/-! SUPPORT. The arithmetic instructions (O7 to O12, O18). An instruction of the family writes A, a register, a byte or a
pair and the flags its operation names, and goes on: first the operations' results as bytes, then what a flag write
leaves, then one result for each shape of instruction, then the statements. -/

namespace Sys2Proof.Machine

/-! ### The operations' results (R112, R113, R513 to R520) -/

theorem toNat_addAlu_val (a b : Byte) (cin : Bool) :
    (addAlu a b cin).val.toNat = (a.toNat + b.toNat + cin.toNat) % 256 := BitVec.toNat_ofNat _ _

theorem subAlu_val (a b : Byte) (bin : Bool) : (subAlu a b bin).val = a - b - BitVec.ofNat 8 bin.toNat := by
  apply BitVec.eq_of_toNat_eq
  simp only [subAlu, BitVec.toNat_ofInt, BitVec.toNat_sub, BitVec.toNat_ofNat]
  omega

theorem incAlu_eq (v : Byte) : incAlu v = ⟨v + 1, (.ac, decide (v.toNat % 16 = 15)) :: szp (v + 1)⟩ := by
  have val : BitVec.ofNat 8 (v.toNat + 1) = v + 1 := by simp [BitVec.ofNat_add]
  rw [incAlu, val, nibble]

theorem decAlu_eq (v : Byte) : decAlu v = ⟨v - 1, (.ac, decide (v.toNat % 16 ≠ 0)) :: szp (v - 1)⟩ := by
  have val : BitVec.ofInt 8 ((v.toNat : Int) - 1) = v - 1#8 := by
    apply BitVec.eq_of_toNat_eq
    rw [BitVec.toNat_ofInt, BitVec.toNat_sub, BitVec.toNat_ofNat]
    omega
  rw [decAlu, val]
  rfl

/-- What DAA adds for the low digit (R520). -/
def daaLow (a : Byte) (ac : Bool) : Nat := if ac = true ∨ 9 < a.toNat % 16 then 6 else 0

/-- What DAA adds for the high digit (R520). -/
def daaHigh (a : Byte) (cy : Bool) : Nat := if cy = true ∨ 0x99 < a.toNat then 0x60 else 0

/-- A is above 0x99 exactly when its high digit is above 9, or is 9 under a low digit above 9 (R520). -/
theorem daaHigh_condition (a : Byte) (cy : Bool) :
    (cy || decide (a.toNat / 16 > 9) || (decide (a.toNat / 16 ≥ 9) && decide (nibble a > 9))) =
      decide (cy = true ∨ 0x99 < a.toNat) := by
  have digits : (a.toNat / 16 > 9 ∨ a.toNat / 16 ≥ 9 ∧ nibble a > 9) ↔ 0x99 < a.toNat := by
    unfold nibble
    omega
  rw [Bool.eq_iff_iff]
  simp only [Bool.or_eq_true, Bool.and_eq_true, decide_eq_true_eq, or_assoc, digits]

/-- The two corrections are added one by one, and the high one leaves the low digit (R520). -/
theorem daaAlu_eq (a : Byte) (ac cy : Bool) :
    daaAlu a ac cy =
      ⟨BitVec.ofNat 8 (a.toNat + daaLow a ac + daaHigh a cy),
        (.ac, decide (16 ≤ a.toNat % 16 + daaLow a ac)) :: (.cy, decide (cy = true ∨ 0x99 < a.toNat)) ::
          szp (BitVec.ofNat 8 (a.toNat + daaLow a ac + daaHigh a cy))⟩ := by
  have low : (if ac || decide (nibble a > 9) then 0x06 else 0) = daaLow a ac := by simp [daaLow, nibble]
  have sum : (if cy = true ∨ 0x99 < a.toNat then daaLow a ac + 0x60 else daaLow a ac) =
      daaLow a ac + daaHigh a cy := by unfold daaHigh; split <;> rfl
  have lowNibble : (daaLow a ac + daaHigh a cy) % 16 = daaLow a ac := by
    unfold daaLow daaHigh
    split <;> split <;> rfl
  simp only [daaAlu, daaHigh_condition, low, decide_eq_true_eq, sum, lowNibble, ← Nat.add_assoc]
  rfl

/-! ### What a flag write leaves -/

section FlagWrite

variable {s t u : State}

/-- The flag byte written does not depend on the registers and bytes written before it. -/
theorem TransferFrame.setFlags_f_eq (h : TransferFrame s u) (ks : List (Flag × Bool)) :
    (u.setFlags ks).f = (s.setFlags ks).f := by
  rw [setFlags_f, setFlags_f, h.par, h.f]

/-- Every bit of F that no flag named in a write holds stays (R108, R109). -/
theorem keepsFlagsBut_of {ks : List (Flag × Bool)} {names : List Flag} (fixed : FixedBits s)
    (written : t.f = (s.setFlags ks).f) (named : ∀ k ∈ ks, k.1 ∈ names) : KeepsFlagsBut s t names := by
  intro i hi outside
  rw [written]
  exact bit_setFlags_other s ks i hi fixed fun k hk => outside k.1 (named k hk)

/-- Under the default masks a flag holds what was written to it (R108). -/
theorem flag_eq_of_flagIs {k : Flag} {v : Bool} (h : FlagIs s t k v) (hand : s.par.flagAnd = 0xD7#8)
    (hor : s.par.flagOr = 0x02#8) : t.flag k = v := by
  rw [FlagIs, hand, hor] at h
  cases k <;> simpa [Flag.bit] using h

theorem additionFlags_of {v : Byte} {cin : Bool} (written : t.f = (s.setFlags (addAlu s.a v cin).flags).f) :
    FlagIs s t .cy (decide (256 ≤ s.a.toNat + v.toNat + cin.toNat)) ∧
      FlagIs s t .ac (decide (16 ≤ s.a.toNat % 16 + v.toNat % 16 + cin.toNat)) ∧
      SzpTell s t (addAlu s.a v cin).val :=
  ⟨flagIs_setFlags s t _ _ _ written rfl, flagIs_setFlags s t _ _ _ written rfl,
    szpTell_setFlags s t _ _ written rfl rfl rfl⟩

/-- The flags of a subtraction, whose differences are integers in the model and comparisons here (R113). -/
theorem subtractionFlags_of {v : Byte} {bin : Bool} (written : t.f = (s.setFlags (subAlu s.a v bin).flags).f) :
    SubtractionFlags s t v bin := by
  have borrow : decide ((s.a.toNat : Int) - v.toNat - bin.toNat < 0) = decide (s.a.toNat < v.toNat + bin.toNat) := by
    rw [decide_eq_decide]
    omega
  have noHalfBorrow : decide ((nibble s.a : Int) - nibble v - bin.toNat ≥ 0) =
      decide (v.toNat % 16 + bin.toNat ≤ s.a.toNat % 16) := by
    rw [decide_eq_decide, nibble, nibble]
    omega
  refine ⟨flagIs_setFlags s t _ _ _ written borrow, flagIs_setFlags s t _ _ _ written noHalfBorrow, ?_⟩
  rw [← subAlu_val]
  exact szpTell_setFlags s t _ _ written rfl rfl rfl

/-- AC, S, Z and P written and CY not (R513, R515). -/
theorem countFlags_of {w : Byte} {ac : Bool} (fixed : FixedBits s)
    (written : t.f = (s.setFlags ((.ac, ac) :: szp w)).f) : CountFlags s t w ac :=
  ⟨flagIs_setFlags s t _ _ _ written rfl, szpTell_setFlags s t _ _ written rfl rfl rfl,
    keepsFlagsBut_of fixed written (by simp)⟩

end FlagWrite

/-! ### The shapes of instruction -/

@[simp] theorem aluToA_a (i : Instr) (r : Alu) (s : State) : (aluToA i r s).a = r.val := rfl
@[simp] theorem aluToA_f (i : Instr) (r : Alu) (s : State) : (aluToA i r s).f = (s.setFlags r.flags).f := rfl

theorem aluToA_reg_other (i : Instr) (r : Alu) (s : State) {q : Reg} (hq : q ≠ .a) :
    (aluToA i r s).reg q = s.reg q := by
  cases q with
  | b | c | d | e | h | l => rfl
  | a => exact absurd rfl hq

theorem addsToA_aluToA {s : State} (i : Instr) (v : Byte) (cin : Bool) (fixed : FixedBits s) :
    AddsToA s (aluToA i (addAlu s.a v cin) s) i i.length v cin := by
  obtain ⟨cy, ac, szp⟩ := additionFlags_of (aluToA_f i (addAlu s.a v cin) s)
  exact ⟨toNat_addAlu_val s.a v cin, cy, ac, szp, aluToA_frame s i _ fixed⟩

theorem subtractsFromA_aluToA {s : State} (i : Instr) (v : Byte) (bin : Bool) (fixed : FixedBits s) :
    SubtractsFromA s (aluToA i (subAlu s.a v bin) s) i i.length v bin :=
  ⟨(aluToA_a i _ s).trans (subAlu_val s.a v bin), subtractionFlags_of (aluToA_f i _ s), aluToA_frame s i _ fixed⟩

/-- A count of a register (R513, R515): the register gets `w`, with the flags of a count. -/
def CountsReg (s t : State) (i : Instr) (len : Nat) (dst : Reg) (w : Byte) (ac : Bool) : Prop :=
  t.reg dst = w ∧ CountFlags s t w ac ∧ KeepsRegsBut s t [dst] ∧ t.sp = s.sp ∧ KeepsMemory s t ∧ KeepsEngine s t ∧
    Advances s t i len

theorem countsReg_aluToReg {s : State} (i : Instr) (dst : Reg) {r : Alu} {w : Byte} {ac : Bool} (fixed : FixedBits s)
    (result : r = ⟨w, (.ac, ac) :: szp w⟩) : CountsReg s (aluToReg i dst r s) i i.length dst w ac := by
  subst result
  have frame := (TransferFrame.refl s).setReg dst w
  have others : KeepsRegsBut s (aluToReg i dst ⟨w, (.ac, ac) :: szp w⟩ s) [dst] := fun q hq => by
    rw [aluToReg, next_reg, setFlags_reg, reg_setReg_other s dst q w (by simpa using hq)]
  exact ⟨by simp [aluToReg], countFlags_of fixed (frame.setFlags_f_eq _), others, setReg_sp s dst w,
    frame.keepsMemory_next (memoryIs_setReg s dst w) i, frame.engine_next i, frame.advances i⟩

/-- A count of the byte at HL (R514, R516): it gets `w`, with the flags of a count. -/
def CountsM (s t : State) (i : Instr) (len : Nat) (w : Byte) (ac : Bool) : Prop :=
  Stores s t [(join s.h s.l, w)] ∧ CountFlags s t w ac ∧ KeepsRegsBut s t [] ∧ t.sp = s.sp ∧ KeepsEngine s t ∧
    Advances s t i len

theorem countsM_aluToM {s : State} (i : Instr) {r : Alu} {w : Byte} {ac : Bool} (fixed : FixedBits s)
    (result : r = ⟨w, (.ac, ac) :: szp w⟩) : CountsM s (aluToM i r s) i i.length w ac := by
  subst result
  have frame := (TransferFrame.refl s).setByte s.hl w
  have stored : Stores s (aluToM i ⟨w, (.ac, ac) :: szp w⟩ s) [(s.hl, w)] :=
    frame.stores_next (ws := [(s.hl, w)]) ⟨rfl, rfl, rfl⟩ (List.nodup_singleton s.hl) i
  exact ⟨stored, countFlags_of fixed (frame.setFlags_f_eq _), fun q _ => by simp [aluToM], rfl, frame.engine_next i,
    frame.advances i⟩

/-! ### The statements -/

/-- Settles O7: six forms of one accumulator operation. -/
theorem additionResult : Obligations.AdditionResult := fun s src n fixed =>
  ⟨⟨_, rfl, addsToA_aluToA (.addR src) (s.reg src) false fixed⟩,
    ⟨_, rfl, addsToA_aluToA .addM s.operandM false fixed⟩,
    ⟨_, rfl, addsToA_aluToA (.adi n) n false fixed⟩,
    ⟨_, rfl, addsToA_aluToA (.adcR src) (s.reg src) (s.flag .cy) fixed⟩,
    ⟨_, rfl, addsToA_aluToA .adcM s.operandM (s.flag .cy) fixed⟩,
    ⟨_, rfl, addsToA_aluToA (.aci n) n (s.flag .cy) fixed⟩,
    row_of_encode rfl rfl rfl, row_of_encode rfl rfl rfl, row_of_encode rfl rfl rfl, row_of_encode rfl rfl rfl,
    row_of_encode rfl rfl rfl, row_of_encode rfl rfl rfl⟩

/-- Settles O8: six forms of one accumulator operation. -/
theorem subtractionResult : Obligations.SubtractionResult := fun s src n fixed =>
  ⟨⟨_, rfl, subtractsFromA_aluToA (.subR src) (s.reg src) false fixed⟩,
    ⟨_, rfl, subtractsFromA_aluToA .subM s.operandM false fixed⟩,
    ⟨_, rfl, subtractsFromA_aluToA (.sui n) n false fixed⟩,
    ⟨_, rfl, subtractsFromA_aluToA (.sbbR src) (s.reg src) (s.flag .cy) fixed⟩,
    ⟨_, rfl, subtractsFromA_aluToA .sbbM s.operandM (s.flag .cy) fixed⟩,
    ⟨_, rfl, subtractsFromA_aluToA (.sbi n) n (s.flag .cy) fixed⟩,
    row_of_encode rfl rfl rfl, row_of_encode rfl rfl rfl, row_of_encode rfl rfl rfl, row_of_encode rfl rfl rfl,
    row_of_encode rfl rfl rfl, row_of_encode rfl rfl rfl⟩

/-- Settles O9: a count up and a count down, each of a register and of the byte at HL. -/
theorem countResult : Obligations.CountResult := fun s dst fixed =>
  ⟨⟨_, rfl, countsReg_aluToReg (.inrR dst) dst fixed (incAlu_eq (s.reg dst))⟩,
    ⟨_, rfl, countsReg_aluToReg (.dcrR dst) dst fixed (decAlu_eq (s.reg dst))⟩,
    ⟨_, rfl, countsM_aluToM .inrM fixed (incAlu_eq s.operandM)⟩,
    ⟨_, rfl, countsM_aluToM .dcrM fixed (decAlu_eq s.operandM)⟩,
    row_of_encode rfl rfl rfl, row_of_encode rfl rfl rfl, row_of_encode rfl rfl rfl, row_of_encode rfl rfl rfl⟩

/-- Settles O10: each is one pair write. -/
theorem countPairResult : Obligations.CountPairResult := fun s pr =>
  ⟨⟨_, rfl, loadsPair_setPair_next s (.inx pr) pr (s.pair pr + 1)⟩,
    ⟨_, rfl, loadsPair_setPair_next s (.dcx pr) pr (s.pair pr - 1)⟩,
    row_of_encode rfl rfl rfl, row_of_encode rfl rfl rfl⟩

/-- Settles O11: one write of HL, and one of CY. -/
theorem doubleAddResult : Obligations.DoubleAddResult := by
  intro s pr fixed
  have frame := (TransferFrame.refl s).setPair .hl (dadAlu s.hl (s.pair pr)).1
  have written := frame.setFlags_f_eq [(.cy, (dadAlu s.hl (s.pair pr)).2)]
  refine ⟨⟨_, rfl, ?sum, flagIs_setFlags s _ _ _ _ written rfl, keepsFlagsBut_of fixed written (by simp), ?others, rfl,
    frame.keepsMemory_next (memoryIs_setPair s _ _) (.dad pr), frame.engine_next (.dad pr), frame.advances (.dad pr)⟩,
    row_of_encode rfl rfl rfl⟩
  case sum => exact (congrArg BitVec.toNat (pair_setPair_same s .hl _)).trans (BitVec.toNat_ofNat _ _)
  case others =>
    intro q hq
    cases q with
    | b | c | d | e | a => rfl
    | h | l => exact absurd (by decide) hq

/-- Settles O12: one accumulator operation, the two corrections of its result taken apart. -/
theorem decimalAdjustResult : Obligations.DecimalAdjustResult := by
  intro s fixed
  have exec_daa : exec .daa s = .next (aluToA .daa (daaAlu s.a (s.flag .ac) (s.flag .cy)) s) := rfl
  rw [daaAlu_eq] at exec_daa
  have written := aluToA_f .daa (daaAlu s.a (s.flag .ac) (s.flag .cy)) s
  rw [daaAlu_eq] at written
  exact ⟨⟨_, exec_daa, BitVec.toNat_ofNat _ _, flagIs_setFlags s _ _ _ _ written rfl,
    flagIs_setFlags s _ _ _ _ written rfl, szpTell_setFlags s _ _ _ written rfl rfl rfl, aluToA_frame s .daa _ fixed⟩,
    row_of_encode rfl rfl rfl⟩

/-- `ADD r` under the default masks, in plain values (R501). -/
theorem addR_values {s t : State} {src : Reg} (added : exec (.addR src) s = .next t) (notA : src ≠ .a)
    (hand : s.par.flagAnd = 0xD7#8) (hor : s.par.flagOr = 0x02#8) :
    t.par = s.par ∧ t.reg src = s.reg src ∧ t.a.toNat = (s.a.toNat + (s.reg src).toNat) % 256 ∧
      t.flag .cy = decide (256 ≤ s.a.toNat + (s.reg src).toNat) ∧
      t.flag .ac = decide (16 ≤ s.a.toNat % 16 + (s.reg src).toNat % 16) := by
  obtain rfl := Host.Outcome.next.inj added
  obtain ⟨cy, ac, -⟩ := additionFlags_of (aluToA_f (.addR src) (addAlu s.a (s.reg src) false) s)
  exact ⟨rfl, aluToA_reg_other _ _ s notA, toNat_addAlu_val s.a (s.reg src) false, flag_eq_of_flagIs cy hand hor,
    flag_eq_of_flagIs ac hand hor⟩

/-- `SUB r` under the default masks, in plain values (R507). -/
theorem subR_values {s t : State} {src : Reg} (subtracted : exec (.subR src) s = .next t)
    (hand : s.par.flagAnd = 0xD7#8) (hor : s.par.flagOr = 0x02#8) :
    t.a = s.a - s.reg src ∧ t.flag .cy = decide (s.a.toNat < (s.reg src).toNat) ∧
      t.flag .ac = decide ((s.reg src).toNat % 16 ≤ s.a.toNat % 16) := by
  obtain rfl := Host.Outcome.next.inj subtracted
  obtain ⟨cy, ac, -⟩ := subtractionFlags_of (aluToA_f (.subR src) (subAlu s.a (s.reg src) false) s)
  have val := (subAlu_val s.a (s.reg src) false).trans (BitVec.sub_zero _)
  exact ⟨val, flag_eq_of_flagIs cy hand hor, flag_eq_of_flagIs ac hand hor⟩

/-- Settles O18: the `SUB` borrows, from the byte and from the low nibble, exactly where the `ADD` carried. -/
theorem addThenSubRestores : Obligations.AddThenSubRestores := by
  intro s t u src notA hand hor added subtracted
  obtain ⟨par, operand, sum, carry, halfCarry⟩ := addR_values added notA hand hor
  obtain ⟨difference, borrow, noHalfBorrow⟩ := subR_values subtracted (par ▸ hand) (par ▸ hor)
  rw [operand] at difference borrow noHalfBorrow
  refine ⟨?a, ?cy, ?ac⟩
  case a =>
    apply BitVec.eq_of_toNat_eq
    rw [difference, BitVec.toNat_sub, sum]
    omega
  case cy =>
    rw [borrow, carry, decide_eq_decide]
    omega
  case ac =>
    rw [noHalfBorrow, halfCarry, ← decide_not, decide_eq_decide]
    omega

end Sys2Proof.Machine
end

section
/-! SUPPORT. The logical, compare, rotate and flag instructions (O13 to O17). A logical instruction and a compare are
accumulator operations; a rotate, `CMC` and `STC` write CY alone of the flags; `CMA` is one register write. First the
operations' results, then one result for each shape of instruction, then the statements. -/

namespace Sys2Proof.Machine

/-! ### The operations' results (R601 to R616) -/

/-- A logical result: its bits, CY and AC, and S, Z and P told of the byte (R601, R604, R607). -/
structure IsLogical (r : Alu) (res : Nat → Bool) (ac : Bool) : Prop where
  bits : ∀ k, k < 8 → r.val.getLsbD k = res k
  cy : ∀ old, lastFor .cy old r.flags = false
  ac : ∀ old, lastFor .ac old r.flags = ac
  s : ∀ old, lastFor .s old r.flags = r.val.getLsbD 7
  z : ∀ old, lastFor .z old r.flags = (r.val == 0#8)
  p : ∀ old, lastFor .p old r.flags = parity r.val

theorem isLogical_andAlu (a b : Byte) :
    IsLogical (andAlu a b) (fun k => a.getLsbD k && b.getLsbD k) (a.getLsbD 3 || b.getLsbD 3) where
  bits _ _ := BitVec.getLsbD_and
  cy _ := rfl
  ac _ := BitVec.getLsbD_or
  s _ := rfl
  z _ := rfl
  p _ := rfl

theorem isLogical_xorAlu (a b : Byte) : IsLogical (xorAlu a b) (fun k => a.getLsbD k != b.getLsbD k) false where
  bits _ _ := BitVec.getLsbD_xor
  cy _ := rfl
  ac _ := rfl
  s _ := rfl
  z _ := rfl
  p _ := rfl

theorem isLogical_orAlu (a b : Byte) : IsLogical (orAlu a b) (fun k => a.getLsbD k || b.getLsbD k) false where
  bits _ _ := BitVec.getLsbD_or
  cy _ := rfl
  ac _ := rfl
  s _ := rfl
  z _ := rfl
  p _ := rfl

/-- A difference is zero exactly when the operands are equal (R610). -/
theorem toNat_sub_sub_zero_eq_zero_iff (a b : Byte) : (a - b - 0#8).toNat = 0 ↔ a = b := by
  rw [← BitVec.toNat_inj, BitVec.sub_zero, BitVec.toNat_sub]
  omega

/-- The byte that holds one bit, at its low end. -/
theorem getLsbD_bit (b : Bool) (k : Nat) : (if b then 1#8 else 0#8).getLsbD k = (decide (k = 0) && b) := by
  cases b <;> simp

/-- A shift left by one with `b` coming in at bit 0. -/
theorem getLsbD_shiftLeft_one_or (a : Byte) (b : Bool) {k : Nat} (hk : k < 8) :
    (a <<< 1 ||| (if b then 1#8 else 0#8)).getLsbD k = if k = 0 then b else a.getLsbD (k - 1) := by
  rw [BitVec.getLsbD_or, BitVec.getLsbD_shiftLeft, getLsbD_bit]
  by_cases low : k = 0
  · simp [low]
  · simp [low, hk, -BitVec.getLsbD_eq_getElem]

/-- A shift right by one with `b` coming in at bit 7. -/
theorem getLsbD_ushiftRight_one_or (a : Byte) (b : Bool) {k : Nat} (hk : k < 8) :
    (a >>> 1 ||| (if b then 1#8 else 0#8) <<< 7).getLsbD k = if k = 7 then b else a.getLsbD (k + 1) := by
  rw [BitVec.getLsbD_or, BitVec.getLsbD_ushiftRight, BitVec.getLsbD_shiftLeft, getLsbD_bit]
  by_cases high : k = 7
  · simp [high]
  · have inside : k < 7 := by omega
    simp [high, inside, Nat.add_comm 1 k]

theorem getLsbD_rlcAlu (a : Byte) {k : Nat} (hk : k < 8) : (rlcAlu a).1.getLsbD k = a.getLsbD ((k + 7) % 8) := by
  refine (getLsbD_shiftLeft_one_or a _ hk).trans ?_
  split
  next low => rw [low]
  next inside => congr 1; omega

theorem getLsbD_rrcAlu (a : Byte) {k : Nat} (hk : k < 8) : (rrcAlu a).1.getLsbD k = a.getLsbD ((k + 1) % 8) := by
  refine (getLsbD_ushiftRight_one_or a _ hk).trans ?_
  split
  next high => rw [high]
  next inside => congr 1; omega

/-! ### The shapes of instruction -/

theorem logicalToA_aluToA {s : State} (i : Instr) {r : Alu} {res : Nat → Bool} {ac : Bool} (fixed : FixedBits s)
    (logical : IsLogical r res ac) : LogicalToA s (aluToA i r s) i i.length res ac := by
  have written := aluToA_f i r s
  exact ⟨logical.bits, flagIs_setFlags s _ _ _ _ written (logical.cy _), flagIs_setFlags s _ _ _ _ written (logical.ac _),
    szpTell_setFlags s _ _ _ written (logical.s _) (logical.z _) (logical.p _), aluToA_frame s i r fixed⟩

/-- A compare is an accumulator operation whose result is A itself. -/
theorem aluCompare_eq_aluToA (i : Instr) (r : Alu) (s : State) : aluCompare i r s = aluToA i ⟨s.a, r.flags⟩ s := rfl

theorem comparesA_aluCompare {s : State} (i : Instr) (v : Byte) (fixed : FixedBits s) :
    ComparesA s (aluCompare i (subAlu s.a v false) s) i i.length v := by
  rw [aluCompare_eq_aluToA]
  obtain ⟨cy, ac, sign, zero, even⟩ := subtractionFlags_of (aluToA_f i ⟨s.a, (subAlu s.a v false).flags⟩ s)
  have equal : decide ((s.a - v - 0#8).toNat = 0) = decide (s.a = v) :=
    decide_eq_decide.mpr (toNat_sub_sub_zero_eq_zero_iff s.a v)
  exact ⟨rfl, ⟨cy, ac, sign, zero, even⟩, equal ▸ zero, aluToA_frame s i _ fixed⟩

/-- CY written, of the flags CY alone, and the registers listed; PC past the instruction (R613 to R616, R618, R619). -/
def WritesCarry (s t : State) (i : Instr) (len : Nat) (rs : List Reg) (cy : Bool) : Prop :=
  FlagIs s t .cy cy ∧ KeepsFlagsBut s t [.cy] ∧ KeepsRegsBut s t rs ∧ t.sp = s.sp ∧ KeepsMemory s t ∧ KeepsEngine s t ∧
    Advances s t i len

theorem TransferFrame.writesCarry {s u : State} {rs : List Reg} (frame : TransferFrame s u) (memory : MemoryIs s u)
    (others : KeepsRegsBut s u rs) (sp : u.sp = s.sp) (fixed : FixedBits s) (i : Instr) (cy : Bool) :
    WritesCarry s ((u.setFlags [(.cy, cy)]).next i) i i.length rs cy := by
  have written := frame.setFlags_f_eq [(.cy, cy)]
  have kept : KeepsRegsBut s ((u.setFlags [(.cy, cy)]).next i) rs := fun r hr => by
    rw [next_reg, setFlags_reg, others r hr]
  exact ⟨flagIs_setFlags s _ _ _ _ written rfl, keepsFlagsBut_of fixed written (by simp), kept, sp,
    frame.keepsMemory_next memory i, frame.engine_next i, frame.advances i⟩

theorem writesCarry_rotateA {s : State} (i : Instr) (r : Byte × Bool) (fixed : FixedBits s) :
    WritesCarry s (rotateA i r s) i i.length [.a] r.2 :=
  ((TransferFrame.refl s).setReg .a r.1).writesCarry (memoryIs_setReg s .a r.1)
    (fun q hq => reg_setReg_other s .a q r.1 (by simpa using hq)) rfl fixed i r.2

theorem writesCarry_setFlags_next {s : State} (i : Instr) (cy : Bool) (fixed : FixedBits s) :
    WritesCarry s ((s.setFlags [(.cy, cy)]).next i) i i.length [] cy :=
  (TransferFrame.refl s).writesCarry ⟨rfl, rfl, rfl⟩ (fun _ _ => rfl) rfl fixed i cy

/-! ### The statements -/

/-- Settles O13: three forms of one logical operation. -/
theorem andResult : Obligations.AndResult := fun s src n fixed =>
  ⟨⟨_, rfl, logicalToA_aluToA (.anaR src) fixed (isLogical_andAlu s.a (s.reg src))⟩,
    ⟨_, rfl, logicalToA_aluToA .anaM fixed (isLogical_andAlu s.a s.operandM)⟩,
    ⟨_, rfl, logicalToA_aluToA (.ani n) fixed (isLogical_andAlu s.a n)⟩,
    row_of_encode rfl rfl rfl, row_of_encode rfl rfl rfl, row_of_encode rfl rfl rfl⟩

/-- Settles O14: three forms of each of two logical operations. -/
theorem xorOrResult : Obligations.XorOrResult := fun s src n fixed =>
  ⟨⟨_, rfl, logicalToA_aluToA (.xraR src) fixed (isLogical_xorAlu s.a (s.reg src))⟩,
    ⟨_, rfl, logicalToA_aluToA .xraM fixed (isLogical_xorAlu s.a s.operandM)⟩,
    ⟨_, rfl, logicalToA_aluToA (.xri n) fixed (isLogical_xorAlu s.a n)⟩,
    ⟨_, rfl, logicalToA_aluToA (.oraR src) fixed (isLogical_orAlu s.a (s.reg src))⟩,
    ⟨_, rfl, logicalToA_aluToA .oraM fixed (isLogical_orAlu s.a s.operandM)⟩,
    ⟨_, rfl, logicalToA_aluToA (.ori n) fixed (isLogical_orAlu s.a n)⟩,
    row_of_encode rfl rfl rfl, row_of_encode rfl rfl rfl, row_of_encode rfl rfl rfl, row_of_encode rfl rfl rfl,
    row_of_encode rfl rfl rfl, row_of_encode rfl rfl rfl⟩

/-- Settles O15: three forms of one compare. -/
theorem compareResult : Obligations.CompareResult := fun s src n fixed =>
  ⟨⟨_, rfl, comparesA_aluCompare (.cmpR src) (s.reg src) fixed⟩,
    ⟨_, rfl, comparesA_aluCompare .cmpM s.operandM fixed⟩,
    ⟨_, rfl, comparesA_aluCompare (.cpi n) n fixed⟩,
    row_of_encode rfl rfl rfl, row_of_encode rfl rfl rfl, row_of_encode rfl rfl rfl⟩

/-- Settles O16: `RLC` and `RRC` bring in the bit that goes out, `RAL` and `RAR` the old CY. -/
theorem rotateResult : Obligations.RotateResult := fun s fixed =>
  ⟨⟨_, rfl, fun _ => getLsbD_rlcAlu s.a, writesCarry_rotateA .rlc (rlcAlu s.a) fixed⟩,
    ⟨_, rfl, fun _ => getLsbD_rrcAlu s.a, writesCarry_rotateA .rrc (rrcAlu s.a) fixed⟩,
    ⟨_, rfl, fun _ => getLsbD_shiftLeft_one_or s.a (s.flag .cy),
      writesCarry_rotateA .ral (ralAlu s.a (s.flag .cy)) fixed⟩,
    ⟨_, rfl, fun _ => getLsbD_ushiftRight_one_or s.a (s.flag .cy),
      writesCarry_rotateA .rar (rarAlu s.a (s.flag .cy)) fixed⟩,
    row_of_encode rfl rfl rfl, row_of_encode rfl rfl rfl, row_of_encode rfl rfl rfl, row_of_encode rfl rfl rfl⟩

/-- Settles O17: `CMA` is one register write, `CMC` and `STC` each one write of CY. -/
theorem complementAndCarryResult : Obligations.ComplementAndCarryResult := by
  intro s fixed
  refine ⟨⟨_, rfl, ?complement, ?frame⟩, ⟨_, rfl, writesCarry_setFlags_next .cmc (!s.flag .cy) fixed⟩,
    ⟨_, rfl, writesCarry_setFlags_next .stc true fixed⟩,
    row_of_encode rfl rfl rfl, row_of_encode rfl rfl rfl, row_of_encode rfl rfl rfl⟩
  case complement =>
    intro k hk
    exact BitVec.getLsbD_not.trans (by rw [decide_eq_true hk, Bool.true_and])
  case frame =>
    obtain ⟨-, frame⟩ := loadsReg_setReg_next s .cma .a (~~~s.a)
    exact frame

end Sys2Proof.Machine
end

section
/-! SUPPORT. The control transfer instructions (O19 to O23). A transfer writes PC after its push or its pop and is
paid for: first what such an ending adds, then one result for each shape of instruction, then the eight conditions of R305
as one family each of jumps, calls and returns, then the statements. -/

namespace Sys2Proof.Machine

/-! ### What setting PC and paying leave -/

namespace TransferFrame

variable {s u : State}

theorem pays_finish (h : TransferFrame s u) (target : Word) (i : Instr) (taken : Bool) :
    Pays s (({ u with pc := target }).finish i taken) i taken := by
  simp only [Pays, finish_cyc, h.cyc, h.par]

theorem engine_finish (h : TransferFrame s u) (target : Word) (i : Instr) (taken : Bool) :
    KeepsEngine s (({ u with pc := target }).finish i taken) := h.engine

theorem push16 (h : TransferFrame s u) (v : Word) : TransferFrame s (u.push16 v) := ⟨h.f, h.pc, h.cyc, h.engine⟩

/-- A pop reads memory and moves SP alone (R16). -/
theorem pop16 (h : TransferFrame s u) : TransferFrame s u.pop16.2 := ⟨h.f, h.pc, h.cyc, h.engine⟩

end TransferFrame

theorem reg_setPc_finish (u : State) (target : Word) (i : Instr) (taken : Bool) (r : Reg) :
    (({ u with pc := target }).finish i taken).reg r = u.reg r := by cases r <;> rfl

theorem pop16_reg (s : State) (r : Reg) : s.pop16.2.reg r = s.reg r := by cases r <;> rfl

/-! ### The shapes of instruction -/

/-- An instruction whose action writes PC alone: a jump, or a conditional transfer not taken. -/
theorem goesTo_setPc_finish (s : State) (i : Instr) (taken : Bool) (target : Word) :
    GoesTo s (({ s with pc := target }).finish i taken) i taken target := by
  have frame := TransferFrame.refl s
  have memory : KeepsMemory s (({ s with pc := target }).finish i taken) := keepsMemory_of s _ ⟨rfl, rfl, rfl⟩ rfl
  exact ⟨rfl, fun r _ => reg_setPc_finish s target i taken r, rfl, rfl, memory, frame.engine_finish target i taken,
    frame.pays_finish target i taken⟩

/-- A conditional jump pays the same whatever its condition (R700). -/
theorem goesTo_jumpIf (s : State) (i : Instr) (cnd : Cond) (target : Word) :
    GoesTo s (jumpIf i cnd target s) i true (if s.cond cnd then target else s.pcNext i) :=
  goesTo_setPc_finish s i true (if s.cond cnd then target else s.pcNext i)

theorem callsTo_callTo (s : State) (i : Instr) (target : Word) :
    CallsTo s (callTo i target s) i target (s.pcNext i) := by
  have frame := (TransferFrame.refl s).push16 (s.pcNext i)
  have below : (callTo i target s).sp = s.sp - 2 := by
    show s.sp - 1 - 1 = s.sp - 2
    bv_omega
  have pushed : Stores s (callTo i target s) [(s.sp - 1, hiByte (s.pcNext i)), (s.sp - 2, loByte (s.pcNext i))] :=
    push16_stores s _ (s.pcNext i) ⟨rfl, rfl, rfl⟩ rfl
  exact ⟨rfl, below, pushed, fun r _ => (reg_setPc_finish _ target i true r).trans (push16_reg s _ r), rfl,
    frame.engine_finish target i true, frame.pays_finish target i true⟩

theorem returnsBack_returnFrom (s : State) (i : Instr) : ReturnsBack s (returnFrom i s) i := by
  have frame := (TransferFrame.refl s).pop16
  have memory : KeepsMemory s (returnFrom i s) := keepsMemory_of s _ ⟨rfl, rfl, rfl⟩ rfl
  exact ⟨rfl, rfl, memory, fun r _ => (reg_setPc_finish s.pop16.2 s.pop16.1 i true r).trans (pop16_reg s r), rfl,
    frame.engine_finish s.pop16.1 i true, frame.pays_finish s.pop16.1 i true⟩

/-- A conditional call is a call or goes on, by its condition (R711 to R718). -/
theorem callsTo_or_goesTo_callIf (s : State) (i : Instr) (cnd : Cond) (target : Word) :
    if s.cond cnd then CallsTo s (callIf i cnd target s) i target (s.pcNext i)
    else GoesTo s (callIf i cnd target s) i false (s.pcNext i) := by
  unfold callIf
  split
  · exact callsTo_callTo s i target
  · exact goesTo_setPc_finish s i false (s.pcNext i)

/-- A conditional return is a return or goes on, by its condition (R720 to R727). -/
theorem returnsBack_or_goesTo_returnIf (s : State) (i : Instr) (cnd : Cond) :
    if s.cond cnd then ReturnsBack s (returnIf i cnd s) i
    else GoesTo s (returnIf i cnd s) i false (s.pcNext i) := by
  unfold returnIf
  split
  · exact returnsBack_returnFrom s i
  · exact goesTo_setPc_finish s i false (s.pcNext i)

/-- Where an instruction of the table goes on: past the bytes of its row (R18). -/
theorem pcNext_of_row {i : Instr} {bytes : List Byte} {cls : Byte} {cost : Nat × Nat} (row : Row i bytes cls cost)
    (s : State) : s.pcNext i = s.pc + BitVec.ofNat 16 bytes.length := by
  obtain ⟨-, lengthEq, -, -⟩ := row
  rw [State.pcNext, lengthEq]

/-! ### The eight conditions (R305) -/

/-- The code `ccc` of a condition (R305), which the decoder's tables of conditional transfers go by. -/
def condCode : Cond → BitVec 3
  | .nz => 0b000#3
  | .z => 0b001#3
  | .nc => 0b010#3
  | .c => 0b011#3
  | .po => 0b100#3
  | .pe => 0b101#3
  | .p => 0b110#3
  | .m => 0b111#3

/-- One row for each condition, in the order of the codes: the instruction the code gives, whether the condition holds,
and the code. -/
def condRows (s : State) (form : BitVec 3 → Instr) : List (Instr × Bool × BitVec 3) :=
  [Cond.nz, .z, .nc, .c, .po, .pe, .p, .m].map fun cnd => (form (condCode cnd), s.cond cnd, condCode cnd)

/-- What holds of each condition holds of every row. -/
theorem forall_mem_condRows {s : State} {form : BitVec 3 → Instr} {motive : Instr × Bool × BitVec 3 → Prop}
    (each : ∀ cnd, motive (form (condCode cnd), s.cond cnd, condCode cnd)) :
    ∀ row ∈ condRows s form, motive row :=
  List.forall_mem_map.mpr fun cnd _ => each cnd

theorem exec_decodeJumpIf (s : State) (cnd : Cond) (nn : Word) :
    exec (decodeJumpIf (condCode cnd) nn) s = .next (jumpIf (decodeJumpIf (condCode cnd) nn) cnd nn s) := by
  cases cnd <;> rfl

theorem exec_decodeCallIf (s : State) (cnd : Cond) (nn : Word) :
    exec (decodeCallIf (condCode cnd) nn) s = .next (callIf (decodeCallIf (condCode cnd) nn) cnd nn s) := by
  cases cnd <;> rfl

theorem exec_decodeReturnIf (s : State) (cnd : Cond) :
    exec (decodeReturnIf (condCode cnd)) s = .next (returnIf (decodeReturnIf (condCode cnd)) cnd s) := by
  cases cnd <;> rfl

theorem row_decodeJumpIf (cnd : Cond) (nn : Word) :
    Row (decodeJumpIf (condCode cnd) nn) [0b11#2 ++ condCode cnd ++ 0b010#3, loByte nn, hiByte nn] 0x20#8 (10, 10) := by
  cases cnd <;> exact row_of_encode rfl rfl rfl

theorem row_decodeCallIf (cnd : Cond) (nn : Word) :
    Row (decodeCallIf (condCode cnd) nn) [0b11#2 ++ condCode cnd ++ 0b100#3, loByte nn, hiByte nn] 0x0A#8 (17, 11) := by
  cases cnd <;> exact row_of_encode rfl rfl rfl

theorem row_decodeReturnIf (cnd : Cond) :
    Row (decodeReturnIf (condCode cnd)) [0b11#2 ++ condCode cnd ++ 0b000#3] 0x11#8 (11, 5) := by
  cases cnd <;> exact row_of_encode rfl rfl rfl

/-! ### The statements -/

/-- Settles O19: each writes PC alone. -/
theorem jumpResult : Obligations.JumpResult := fun s nn =>
  ⟨⟨_, rfl, goesTo_setPc_finish s (.jmp nn) true nn⟩, ⟨_, rfl, goesTo_setPc_finish s .pchl true s.hl⟩,
    row_of_encode rfl rfl rfl, row_of_encode rfl rfl rfl⟩

/-- Settles O20: one jump for each condition, which chooses between the target and the next instruction. -/
theorem conditionalJumpResult : Obligations.ConditionalJumpResult := by
  intro s nn
  refine forall_mem_condRows (form := (decodeJumpIf · nn)) fun cnd => ?_
  have row := row_decodeJumpIf cnd nn
  have goes := goesTo_jumpIf s (decodeJumpIf (condCode cnd) nn) cnd nn
  rw [pcNext_of_row row] at goes
  exact ⟨⟨_, exec_decodeJumpIf s cnd nn, goes⟩, row⟩

/-- Settles O21: `CALL` and `RST` are one shape of call, `RST` to its number times 8. -/
theorem callReturnResult : Obligations.CallReturnResult := by
  intro s nn n
  refine ⟨⟨_, rfl, callsTo_callTo s (.call nn) nn⟩, ⟨_, rfl, ?restart⟩, ⟨_, rfl, returnsBack_returnFrom s .ret⟩,
    row_of_encode rfl rfl rfl, row_of_encode rfl rfl rfl, row_of_encode rfl rfl rfl⟩
  case restart =>
    rw [Nat.mul_comm 8]
    exact callsTo_callTo s (.rst n) (BitVec.ofNat 16 (n.toNat * 8))

/-- Settles O22: one call for each condition. -/
theorem conditionalCallResult : Obligations.ConditionalCallResult := by
  intro s nn
  refine forall_mem_condRows (form := (decodeCallIf · nn)) fun cnd => ?_
  have row := row_decodeCallIf cnd nn
  have outcome := callsTo_or_goesTo_callIf s (decodeCallIf (condCode cnd) nn) cnd nn
  rw [pcNext_of_row row] at outcome
  exact ⟨⟨_, exec_decodeCallIf s cnd nn, outcome⟩, row⟩

/-- Settles O23: one return for each condition. -/
theorem conditionalReturnResult : Obligations.ConditionalReturnResult := by
  intro s
  refine forall_mem_condRows (form := decodeReturnIf) fun cnd => ?_
  have row := row_decodeReturnIf cnd
  have outcome := returnsBack_or_goesTo_returnIf s (decodeReturnIf (condCode cnd)) cnd
  rw [pcNext_of_row row] at outcome
  exact ⟨⟨_, exec_decodeReturnIf s cnd, outcome⟩, row⟩

end Sys2Proof.Machine
end

section
/-! SUPPORT. The stack, I/O and machine-control instructions and the undefined opcodes (O24 to O30 and O32). Most of the
family are an earlier shape of instruction seen from a state that the action has already changed outside that shape: SP
moved by a pop, F written, an engine flag set, the bus as the devices left it. First what pushes, pops and ports leave
and what an undefined opcode does in each mode, then the shapes of instruction, then the statements. -/

namespace Sys2Proof.Machine

/-! ### What a push and a pop leave -/

theorem push16_sp_eq_sub_two (s : State) (v : Word) : (s.push16 v).sp = s.sp - 2 := by
  rw [push16_sp]
  bv_omega

/-- A pop moves no pair but SP (R16). -/
theorem pop16_pair_other (s : State) {q : Pair} (hq : q ≠ .sp) : s.pop16.2.pair q = s.pair q := by
  cases q with
  | bc | de | hl => rfl
  | sp => exact absurd rfl hq

/-- A pair that the stack instructions can name is not SP (R304). -/
theorem isStack_ne_sp {pr : Pair} (h : pr.isStack = true) : pr ≠ .sp := by
  rintro rfl
  cases h

/-! ### Port access -/

/-- A port without a source reads as 0xFF, and no device is asked (R220). -/
theorem ioRead_of_no_source {asm : Assembly} {port : Byte} (h : registered asm.inputs port = []) (now : Int)
    (bus : Bus) : ioRead asm now port bus = some (0xFF#8, bus) := by
  rw [ioRead, h, andInputs]

/-- A write to a port without a sink reaches no device (R221). -/
theorem ioWrite_of_no_sink {asm : Assembly} {port : Byte} (h : registered asm.outputs port = []) (now : Int) (v : Byte)
    (bus : Bus) : ioWrite asm now port v bus = some bus := by
  rw [ioWrite, h, seqM]

theorem exec_inp_of_ioRead {s : State} {port v : Byte} {bus : Bus}
    (read : ioRead s.asm s.cyc port s.bus = some (v, bus)) :
    exec (.inp port) s = .next ((({ s with bus := bus }).setReg .a v).next (.inp port)) := by
  show execInp port s = _
  simp only [execInp, read]
  rfl

theorem exec_out_of_ioWrite {s : State} {port : Byte} {bus : Bus}
    (written : ioWrite s.asm s.cyc port s.a s.bus = some bus) :
    exec (.out port) s = .next (({ s with bus := bus }).next (.out port)) := by
  show execOut port s = _
  simp only [execOut, written]

/-! ### Undefined opcodes (R312, R817) -/

/-- What an undefined opcode answers under `isa_alias`. -/
theorem next_undefOr_of_isaAlias {s : State} (mode : s.par.undefMode = .isaAlias) (asAlias : State → State) :
    (.next (undefOr asAlias s) : Result) = .next (asAlias s) := by
  simp only [undefOr, mode]

theorem undefOr_of_nop {s : State} (mode : s.par.undefMode = .nop) (asAlias : State → State) :
    undefOr asAlias s = undefAsNop s := by
  simp only [undefOr, mode]

/-- Each undefined opcode is its alias or a one-byte NOP. -/
theorem exec_of_isUndefined {i : Instr} (undefined : isUndefined i = true) (s : State) :
    ∃ asAlias : State → State, exec i s = .next (undefOr asAlias s) := by
  cases i with
  | undefNop | undefJmp | undefRet | undefCall => exact ⟨_, rfl⟩
  | _ => cases undefined

theorem classOf_of_undefined_nop {par : Params} {i : Instr} (mode : par.undefMode = .nop)
    (undefined : isUndefined i = true) : classOf par i = classUndefined := by
  simp only [classOf, mode, undefined, if_true]

/-! ### The shapes of instruction -/

/-- An instruction that only goes on to the next one writes PC alone. -/
theorem goesTo_next (s : State) (i : Instr) : GoesTo s (s.next i) i true (s.pcNext i) :=
  goesTo_setPc_finish s i true (s.pcNext i)

/-- A one-byte instruction whose action is one push. -/
theorem pushesWord_push16_next (s : State) {i : Instr} (oneByte : i.length = 1) (v : Word) :
    PushesWord s ((s.push16 v).next i) i v := by
  have frame := (TransferFrame.refl s).push16 v
  have pushed : Stores s ((s.push16 v).next i) [(s.sp - 1, hiByte v), (s.sp - 2, loByte v)] :=
    push16_stores s _ v ⟨rfl, rfl, rfl⟩ rfl
  exact ⟨push16_sp_eq_sub_two s v, pushed, fun r _ => (next_reg _ i r).trans (push16_reg s v r), frame.f,
    frame.engine_next i, oneByte ▸ frame.advances i⟩

/-- `XTHL` as two byte writes and two register writes, both bytes read before them (R804). -/
theorem exec_xthl (s : State) :
    exec .xthl s =
      .next (((((s.setByte (s.sp + 1) s.h).setByte s.sp s.l).setReg .l (s.getByte s.sp)).setReg .h
        (s.getByte (s.sp + 1))).next .xthl) := rfl

/-! ### The statements -/

/-- Settles O24: two forms of one push. -/
theorem pushResult : Obligations.PushResult := fun s pr _ =>
  ⟨⟨_, rfl, pushesWord_push16_next s rfl (s.pair pr)⟩, ⟨_, rfl, pushesWord_push16_next s rfl (join s.a s.f)⟩,
    row_of_encode rfl rfl rfl, row_of_encode rfl rfl rfl⟩

/-- Settles O25: from the state after the pop, `POP rp` is one pair write, and `POP PSW` one write of A once F is
written. -/
theorem popResult : Obligations.PopResult := by
  intro s pr stack
  refine ⟨⟨_, rfl, ?pair⟩, ⟨_, rfl, ?psw⟩, row_of_encode rfl rfl rfl, row_of_encode rfl rfl rfl⟩
  case pair =>
    obtain ⟨loaded, others, a, f, memory, engine, advances⟩ :=
      loadsPair_setPair_next s.pop16.2 (.popRp pr) pr s.pop16.1
    have sp := others .sp (isStack_ne_sp stack).symm
    exact ⟨loaded, sp, fun q hq hsp => (others q hq).trans (pop16_pair_other s hsp), a, f, memory, engine, advances⟩
  case psw =>
    have hi : hiByte s.pop16.1 = s.getByte (s.sp + 1) := hiByte_join _ _
    have lo : loByte s.pop16.1 = s.getByte s.sp := loByte_join _ _
    obtain ⟨loaded, others, sp, f, memory, engine, advances⟩ :=
      loadsReg_setReg_next (s.pop16.2.writeF (loByte s.pop16.1)) .popPsw .a (hiByte s.pop16.1)
    exact ⟨loaded.trans hi, f.trans (congrArg (fixF s.par) lo), sp, others, memory, engine, advances⟩

/-- Settles O26: two byte writes and two register writes. -/
theorem exchangeStackResult : Obligations.ExchangeStackResult := by
  intro s
  refine ⟨⟨_, exec_xthl s, rfl, rfl, ?_⟩, row_of_encode rfl rfl rfl⟩
  have frame := ((((TransferFrame.refl s).setByte (s.sp + 1) s.h).setByte s.sp s.l).setReg .l
    (s.getByte s.sp)).setReg .h (s.getByte (s.sp + 1))
  have distinct : ([(s.sp + 1, s.h), (s.sp, s.l)].map (·.1)).Nodup := by simp
  refine ⟨frame.stores_next ⟨rfl, rfl, rfl⟩ distinct _, rfl, fun r hr => ?_, frame.f, frame.engine_next _,
    frame.advances _⟩
  obtain ⟨hh, hl⟩ : r ≠ .h ∧ r ≠ .l := by simpa using hr
  rw [next_reg, reg_setReg_other _ _ _ _ hh, reg_setReg_other _ _ _ _ hl, setByte_reg, setByte_reg]

/-- Settles O27: each goes on, `HLT` to its own byte, from the state with SP or the engine flags as it sets them. -/
theorem machineControlResult : Obligations.MachineControlResult := by
  intro s
  refine ⟨⟨_, rfl, ?sphl⟩, ⟨_, rfl, ?ei⟩, ⟨_, rfl, ?di⟩, ⟨_, rfl, ?nop⟩, ⟨_, rfl, ?hlt⟩,
    row_of_encode rfl rfl rfl, row_of_encode rfl rfl rfl, row_of_encode rfl rfl rfl, row_of_encode rfl rfl rfl,
    row_of_encode rfl rfl rfl⟩
  case sphl =>
    obtain ⟨pc, regs, sp, f, memory, engine, pays⟩ := goesTo_next { s with sp := s.hl } .sphl
    exact ⟨sp, regs, f, memory, engine, pc, pays⟩
  case ei =>
    obtain ⟨pc, regs, sp, f, memory, engine, pays⟩ := goesTo_next { s with ie := true, dly := true } .ei
    exact ⟨rfl, rfl, engine, regs, sp, f, memory, pc, pays⟩
  case di =>
    obtain ⟨pc, regs, sp, f, memory, engine, pays⟩ := goesTo_next { s with ie := false } .di
    exact ⟨rfl, engine, regs, sp, f, memory, pc, pays⟩
  case nop =>
    obtain ⟨pc, regs, sp, f, memory, engine, pays⟩ := goesTo_next s .nop
    exact ⟨regs, sp, f, memory, engine, pc, pays⟩
  case hlt =>
    obtain ⟨pc, regs, sp, f, memory, engine, pays⟩ := goesTo_setPc_finish { s with halted := true } .hlt true s.pc
    exact ⟨rfl, engine, pc, regs, sp, f, memory, pays⟩

/-- Settles O28: each alias is a shape of NOP, jump, return or call. -/
theorem undefinedAliasResult : Obligations.UndefinedAliasResult := fun s x y nn mode =>
  ⟨⟨_, next_undefOr_of_isaAlias mode _, goesTo_next s (.undefNop x)⟩,
    ⟨_, next_undefOr_of_isaAlias mode _, goesTo_setPc_finish s (.undefJmp nn) true nn⟩,
    ⟨_, next_undefOr_of_isaAlias mode _, returnsBack_returnFrom s .undefRet⟩,
    ⟨_, next_undefOr_of_isaAlias mode _, callsTo_callTo s (.undefCall y nn) nn⟩,
    row_of_encode rfl rfl rfl, row_of_encode rfl rfl rfl, row_of_encode rfl rfl rfl, row_of_encode rfl rfl rfl⟩

/-- Settles O29: whatever the alias, PC one byte on and 4 cycles. -/
theorem undefinedNopResult : Obligations.UndefinedNopResult := by
  intro s i mode undefined
  obtain ⟨asAlias, executed⟩ := exec_of_isUndefined undefined s
  rw [undefOr_of_nop mode] at executed
  have memory : KeepsMemory s (undefAsNop s) := keepsMemory_of s _ ⟨rfl, rfl, rfl⟩ rfl
  exact ⟨classOf_of_undefined_nop mode undefined, _, executed, rfl, rfl, fun _ _ => rfl, rfl, rfl, memory,
    (TransferFrame.refl s).engine⟩

/-- Settles O30: one write of A, from the state with the bus as the sources left it. -/
theorem portInputResult : Obligations.PortInputResult := by
  intro s port
  refine ⟨fun v bus read => ?_, fun noSource => ?_, row_of_encode rfl rfl rfl⟩
  · obtain ⟨loaded, others, sp, f, memory, engine, advances⟩ :=
      loadsReg_setReg_next { s with bus := bus } (.inp port) .a v
    exact ⟨_, exec_inp_of_ioRead read, loaded, rfl, engine, others, sp, f, memory, advances⟩
  · obtain ⟨loaded, others, sp, f, memory, engine, advances⟩ := loadsReg_setReg_next s (.inp port) .a 0xFF#8
    have read := ioRead_of_no_source noSource s.cyc s.bus
    exact ⟨_, exec_inp_of_ioRead read, loaded, engine, others, sp, f, memory, advances⟩

/-- Settles O32: on to the next instruction, from the state with the bus as the sinks left it. -/
theorem portOutputResult : Obligations.PortOutputResult := by
  intro s port
  refine ⟨fun bus written => ?_, fun noSink => ?_, row_of_encode rfl rfl rfl⟩
  · obtain ⟨pc, regs, sp, f, memory, engine, pays⟩ := goesTo_next { s with bus := bus } (.out port)
    exact ⟨_, exec_out_of_ioWrite written, rfl, engine, regs, sp, f, memory, pc, pays⟩
  · obtain ⟨pc, regs, sp, f, memory, engine, pays⟩ := goesTo_next s (.out port)
    have written := ioWrite_of_no_sink noSink s.cyc s.a s.bus
    exact ⟨_, exec_out_of_ioWrite written, engine, regs, sp, f, memory, pc, pays⟩

end Sys2Proof.Machine
end

section
/-! SUPPORT. One pass of the loop (O36 to O40, O44 to O47). Of an instruction a pass needs little: that it answers, what
it pays and that it leaves the disable delay. First these, for every instruction by its shape; then what the pass does
where each branch of R904 leads, its two interrupt protocols among them; then the statements. -/

namespace Sys2Proof.Machine

/-! ### The costs of the opcode table (R700, R1021) -/

theorem baseCost_of_no_exception {par : Params} {i : Instr} (h : par.costs.lookup i.opcode = none) :
    baseCost par i true = (defaultCost i).1 ∧
      baseCost par i false = if costByOutcome i then (defaultCost i).2 else (defaultCost i).1 := by
  cases hi : costByOutcome i <;> simp [baseCost, h, hi]

theorem baseCost_of_exception {par : Params} {i : Instr} {cost : Nat × Nat}
    (h : par.costs.lookup i.opcode = some cost) :
    baseCost par i true = cost.1 ∧ baseCost par i false = if costByOutcome i then cost.2 else cost.1 := by
  cases hi : costByOutcome i <;> simp [baseCost, h, hi]

/-- An instruction of one cost has it twice in the table (R700). -/
theorem defaultCost_of_not_costByOutcome {i : Instr} (h : costByOutcome i = false) :
    (defaultCost i).1 = (defaultCost i).2 := by
  cases i with
  | cnz | cz | cnc | cc | cpo | cpe | cp | cm | rnz | rz | rnc | rc | rpo | rpe | rp | rm => cases h
  | _ => rfl

theorem defaultCost_pos (i : Instr) : 1 ≤ (defaultCost i).1 ∧ 1 ≤ (defaultCost i).2 := by
  cases i <;> simp [defaultCost]

/-- Under legal parameters no instruction is free (R903). -/
theorem baseCost_pos {par : Params} (ok : paramsOk par = true) (i : Instr) (taken : Bool) :
    1 ≤ baseCost par i taken := by
  have pos : 1 ≤ ((par.costs.lookup i.opcode).getD (defaultCost i)).1 ∧
      1 ≤ ((par.costs.lookup i.opcode).getD (defaultCost i)).2 := by
    cases found : par.costs.lookup i.opcode with
    | none => exact defaultCost_pos i
    | some cost =>
      obtain ⟨before, after, split, -⟩ := List.lookup_eq_some_iff.mp found
      simp only [paramsOk, Bool.and_eq_true, List.all_eq_true, decide_eq_true_eq] at ok
      exact ok.2 (i.opcode, cost) (by simp [split])
  unfold baseCost
  split
  · exact pos.1
  · exact pos.2

/-- The opcodes 11ccc100 and 11ccc000: the conditional calls and returns (R711 to R718, R720 to R727). -/
def hasOutcomeOpcode (op : Byte) : Bool :=
  decide (op &&& 0b11000111#8 = 0b11000100#8) || decide (op &&& 0b11000111#8 = 0b11000000#8)

theorem hasOutcomeOpcode_opMov (d s : BitVec 3) : hasOutcomeOpcode (opMov d s) = false := by
  revert d s; decide

theorem hasOutcomeOpcode_opUnary (d column : BitVec 3) : hasOutcomeOpcode (opUnary d column) = false := by
  revert d column; decide

theorem hasOutcomeOpcode_opAlu (o s : BitVec 3) : hasOutcomeOpcode (opAlu o s) = false := by
  revert o s; decide

theorem hasOutcomeOpcode_opPair (p : Pair) (low : BitVec 4) : hasOutcomeOpcode (opPair p low) = false := by
  cases p <;> revert low <;> decide

theorem hasOutcomeOpcode_rst (n : BitVec 3) : hasOutcomeOpcode (opHigh n 0b111#3) = false := by
  revert n; decide

theorem hasOutcomeOpcode_push (p : Pair) : hasOutcomeOpcode (0b11#2 ++ p.code ++ 0b0101#4) = false := by
  cases p <;> decide

theorem hasOutcomeOpcode_pop (p : Pair) : hasOutcomeOpcode (0b11#2 ++ p.code ++ 0b0001#4) = false := by
  cases p <;> decide

theorem hasOutcomeOpcode_undefCall (x : BitVec 2) : hasOutcomeOpcode (0b11#2 ++ x ++ 0b1101#4) = false := by
  revert x; decide

/-- Which instructions have a cost by outcome is told by the opcode (R10, R700). -/
theorem costByOutcome_eq_hasOutcomeOpcode (i : Instr) : costByOutcome i = hasOutcomeOpcode i.opcode := by
  cases i with
  | movRR | movRM | movMR => exact (hasOutcomeOpcode_opMov _ _).symm
  | mviR | inrR | dcrR | undefNop => exact (hasOutcomeOpcode_opUnary _ _).symm
  | addR | adcR | subR | sbbR | anaR | xraR | oraR | cmpR => exact (hasOutcomeOpcode_opAlu _ _).symm
  | lxi | ldax | stax | inx | dcx | dad => exact (hasOutcomeOpcode_opPair _ _).symm
  | rst => exact (hasOutcomeOpcode_rst _).symm
  | pushRp => exact (hasOutcomeOpcode_push _).symm
  | popRp => exact (hasOutcomeOpcode_pop _).symm
  | undefCall => exact (hasOutcomeOpcode_undefCall _).symm
  | _ => simp only [Instr.opcode, costByOutcome]; decide

/-! ### What every instruction pays and leaves -/

/-- The costs an instruction can return: its base cost by outcome, or the 4 cycles of R817. -/
def IsCost (par : Params) (i : Instr) (cost : Nat) : Prop :=
  cost = baseCost par i true ∨ cost = baseCost par i false ∨ (isUndefined i = true ∧ cost = 4)

/-- What the loop relies on of an instruction: it pays one of its costs and the wait cycle (R907, R908), and only `EI`
writes the disable delay (R809). -/
structure Performed (i : Instr) (s t : State) : Prop where
  paid : ∃ cost, IsCost s.par i cost ∧ t.cyc = s.cyc + cost + s.cyc % 2
  dly : i ≠ .ei → t.dly = s.dly

/-- Writes that leave CYC, the parameters and the delay, and then the charge. -/
theorem performed_finish {s u : State} (same : u.cyc = s.cyc ∧ u.par = s.par ∧ u.dly = s.dly) (i : Instr)
    (taken : Bool) : Performed i s (u.finish i taken) := by
  obtain ⟨cyc, par, dly⟩ := same
  have isCost : IsCost s.par i (baseCost s.par i taken) := by cases taken <;> simp [IsCost]
  exact ⟨⟨_, isCost, by rw [finish_cyc, cyc, par]⟩, fun _ => dly⟩

theorem performed_next {s u : State} (same : u.cyc = s.cyc ∧ u.par = s.par ∧ u.dly = s.dly) (i : Instr) :
    Performed i s (u.next i) :=
  performed_finish (u := { u with pc := u.pcNext i }) same i true

theorem callIf_performed (i : Instr) (cnd : Cond) (target : Word) (s : State) :
    Performed i s (callIf i cnd target s) := by
  unfold callIf
  split
  · exact performed_finish (by exact ⟨rfl, rfl, rfl⟩) i true
  · exact performed_finish (by simp) i false

theorem returnIf_performed (i : Instr) (cnd : Cond) (s : State) : Performed i s (returnIf i cnd s) := by
  unfold returnIf
  split
  · exact performed_finish (by exact ⟨rfl, rfl, rfl⟩) i true
  · exact performed_finish (by simp) i false

/-- An undefined opcode as the instruction it doubles, or for 4 cycles as a NOP (R312, R817). -/
theorem undefOr_performed {i : Instr} (undefined : isUndefined i = true) {asAlias : State → State} {s : State}
    (h : Performed i s (asAlias s)) : Performed i s (undefOr asAlias s) := by
  unfold undefOr
  split
  · exact h
  · exact ⟨⟨4, .inr (.inr ⟨undefined, rfl⟩), rfl⟩, fun _ => rfl⟩

theorem execInp_performed (p : Byte) (s t : State) (h : execInp p s = .next t) : Performed (.inp p) s t := by
  unfold execInp at h
  split at h
  · cases h
  · cases h; exact performed_next (by simp) _

theorem execOut_performed (p : Byte) (s t : State) (h : execOut p s = .next t) : Performed (.out p) s t := by
  unfold execOut at h
  split at h
  · cases h
  · cases h; exact performed_next (by simp) _

/-- Every instruction, by its shape. -/
theorem exec_performed (i : Instr) (s t : State) (h : exec i s = .next t) : Performed i s t := by
  cases i with
  | inp p => exact execInp_performed p s t h
  | out p => exact execOut_performed p s t h
  | ei => cases h; exact ⟨⟨_, .inl rfl, rfl⟩, fun other => absurd rfl other⟩
  | cnz | cz | cnc | cc | cpo | cpe | cp | cm => cases h; exact callIf_performed _ _ _ s
  | rnz | rz | rnc | rc | rpo | rpe | rp | rm => cases h; exact returnIf_performed _ _ s
  | undefNop => cases h; exact undefOr_performed rfl (performed_next (by simp) _)
  | undefJmp | undefRet | undefCall =>
    cases h; exact undefOr_performed rfl (performed_finish (by exact ⟨rfl, rfl, rfl⟩) _ true)
  | jmp | jnz | jz | jnc | jc | jpo | jpe | jp | jm | pchl | call | rst | ret | hlt =>
    cases h; exact performed_finish (by exact ⟨rfl, rfl, rfl⟩) _ true
  | _ => cases h; exact performed_next (by simp) _

/-- Only the two port instructions can do anything but answer (R918). -/
theorem exec_answers (i : Instr) (s : State) (noIn : ∀ port, i ≠ .inp port) (noOut : ∀ port, i ≠ .out port) :
    ∃ t, exec i s = .next t := by
  cases i with
  | inp p => exact absurd rfl (noIn p)
  | out p => exact absurd rfl (noOut p)
  | _ => exact ⟨_, rfl⟩

theorem exec_inp_of_hang {s : State} {port : Byte} (hang : ioRead s.asm s.cyc port s.bus = none) :
    exec (.inp port) s = .fault .notificationHang := by
  show execInp port s = _
  simp only [execInp, hang]

theorem exec_out_of_hang {s : State} {port : Byte} (hang : ioWrite s.asm s.cyc port s.a s.bus = none) :
    exec (.out port) s = .fault .notificationHang := by
  show execOut port s = _
  simp only [execOut, hang]

/-- Where an instruction can stop (R918, R945). -/
def PortHangs (i : Instr) (s : State) : Prop :=
  (∃ port, i = .inp port ∧ ioRead s.asm s.cyc port s.bus = none) ∨
    ∃ port, i = .out port ∧ ioWrite s.asm s.cyc port s.a s.bus = none

/-- Every instruction answers or hangs at a port. -/
theorem exec_answers_or_hangs (i : Instr) (s : State) :
    (∃ t, exec i s = .next t) ∨ (PortHangs i s ∧ exec i s = .fault .notificationHang) := by
  by_cases isIn : ∃ port, i = .inp port
  · obtain ⟨port, rfl⟩ := isIn
    cases read : ioRead s.asm s.cyc port s.bus with
    | none => exact .inr ⟨.inl ⟨port, rfl, read⟩, exec_inp_of_hang read⟩
    | some answer => exact .inl ⟨_, exec_inp_of_ioRead read⟩
  · by_cases isOut : ∃ port, i = .out port
    · obtain ⟨port, rfl⟩ := isOut
      cases written : ioWrite s.asm s.cyc port s.a s.bus with
      | none => exact .inr ⟨.inr ⟨port, rfl, written⟩, exec_out_of_hang written⟩
      | some bus => exact .inl ⟨_, exec_out_of_ioWrite written⟩
    · exact .inl (exec_answers i s (fun port e => isIn ⟨port, e⟩) fun port e => isOut ⟨port, e⟩)

theorem exec_ne_refused (i : Instr) (s : State) (x : Refusal) : exec i s ≠ .refused x := by
  obtain ⟨t, answer⟩ | ⟨-, answer⟩ := exec_answers_or_hangs i s <;> simp [answer]

/-! ### The classes an exclusion is tested on (R320, R817) -/

theorem classOf_eq_tableClass {par : Params} {i : Instr} (h : par.undefMode = .isaAlias ∨ isUndefined i = false) :
    classOf par i = tableClass i := by
  rcases h with mode | defined
  · simp only [classOf, mode]
  · cases mode : par.undefMode <;> simp [classOf, mode, defined]

/-- The table's `undefined` bit stands in the rows of the undefined opcodes alone (R312). -/
theorem isUndefined_iff_tableClass (i : Instr) : isUndefined i = true ↔ tableClass i &&& 0x80#8 ≠ 0#8 := by
  cases i <;> simp only [isUndefined, tableClass] <;> decide

/-! ### How a pass goes on after its drain (R904) -/

theorem interruptTakeable_iff (s : State) :
    s.interruptTakeable = true ↔ s.bus.intReq = true ∧ s.ie = true ∧ s.dly = false := by
  simp [State.interruptTakeable, and_assoc]

theorem interruptTakeable_eq_false_iff (s : State) :
    s.interruptTakeable = false ↔ ¬(s.bus.intReq = true ∧ s.ie = true ∧ s.dly = false) := by
  rw [← interruptTakeable_iff, Bool.not_eq_true]

/-- The priority of R904, read off the state after the drain: what each of the five ends asks of it (R919). -/
def KindHolds (mask : Byte) (t : State) : StepKind → Prop
  | .reset => t.bus.rstReq = true
  | .serviced => t.bus.rstReq = false ∧ t.interruptTakeable = true
  | .tick => t.bus.rstReq = false ∧ t.interruptTakeable = false ∧ t.halted = true
  | .excluded =>
    t.bus.rstReq = false ∧ t.interruptTakeable = false ∧ t.halted = false ∧ classOf t.par t.fetch &&& mask ≠ 0#8
  | .executed =>
    t.bus.rstReq = false ∧ t.interruptTakeable = false ∧ t.halted = false ∧ classOf t.par t.fetch &&& mask = 0#8

/-- A state is of the one kind whose conditions hold of it. -/
theorem kind_eq_iff (mask : Byte) (t : State) (k : StepKind) : t.kind mask = k ↔ KindHolds mask t k := by
  unfold State.kind
  split_ifs <;> cases k <;> simp_all [KindHolds]

/-- After its drain a pass ends as the state's kind says and does what the state's action does (R904). -/
theorem pass_eq_next_iff {mask : Byte} {s t u : State} {k : StepKind} (drained : s.drain = some t) :
    pass mask s = .next (k, u) ↔ t.kind mask = k ∧ t.act mask = .next u := by
  simp only [pass, drained]
  cases t.act mask <;> simp

theorem act_serviced {mask : Byte} {t : State} (kind : t.kind mask = .serviced) : t.act mask = .next t.service := by
  simp only [State.act, kind]

theorem act_tick {mask : Byte} {t : State} (kind : t.kind mask = .tick) : t.act mask = .next (t.charge 1) := by
  simp only [State.act, kind]

theorem act_excluded {mask : Byte} {t : State} (kind : t.kind mask = .excluded) : t.act mask = .next t := by
  simp only [State.act, kind]

theorem act_executed {mask : Byte} {t : State} (kind : t.kind mask = .executed) :
    t.act mask = exec t.fetch { t with dly := false } := by
  simp only [State.act, kind]

/-- A step does what the pass does after its drain, whatever that answers. -/
theorem step_of_drain {s t : State} (drained : s.drain = some t) : step s = t.act s.exclMask := by
  simp only [step, pass, drained]
  cases t.act s.exclMask <;> rfl

/-- With interrupts disabled or delayed no pass takes one (R904, R915). -/
theorem pass_ne_serviced {mask : Byte} {s u : State} {k : StepKind} (off : s.ie = false ∨ s.dly = true)
    (h : pass mask s = .next (k, u)) : k ≠ .serviced := by
  rintro rfl
  obtain ⟨t, drained, -⟩ := pass_cases mask s u _ h
  obtain ⟨kind, -⟩ := (pass_eq_next_iff drained).mp h
  obtain ⟨-, takeable⟩ := (kind_eq_iff mask t _).mp kind
  obtain ⟨-, ie, dly⟩ := (interruptTakeable_iff t).mp takeable
  obtain ⟨bus, -, rfl⟩ := drain_eq s t drained
  rcases off with off | off
  · exact absurd (off.symm.trans ie) (by decide)
  · exact absurd (off.symm.trans dly) (by decide)

/-! ### Taking an interrupt (R911 to R914) -/

theorem pass_serviced {mask : Byte} {s t : State} (drained : s.drain = some t) (noReset : t.bus.rstReq = false)
    (req : t.bus.intReq = true) (ie : t.ie = true) (dly : t.dly = false) :
    pass mask s = .next (.serviced, t.service) :=
  have kind : t.kind mask = .serviced :=
    (kind_eq_iff mask t _).mpr ⟨noReset, (interruptTakeable_iff t).mpr ⟨req, ie, dly⟩⟩
  (pass_eq_next_iff drained).mpr ⟨kind, act_serviced kind⟩

theorem service_of_restart {t : State} (mode : t.par.intMode = .restart) :
    t.service = ({ t.acknowledge with pc := rstTarget t.par t.bus.intVec }).charge t.par.intRstCost := by
  obtain ⟨-, taken⟩ | ⟨other, -⟩ := takeInterrupt_eq t
  · rw [State.service, taken]
  · rw [mode] at other; cases other

theorem service_of_call {t : State} (mode : t.par.intMode = .call) :
    t.service = ({ t.acknowledge.push16 t.acknowledge.pc with pc := t.bus.intVec }).charge t.par.intCallCost := by
  obtain ⟨other, -⟩ | ⟨-, taken⟩ := takeInterrupt_eq t
  · rw [mode] at other; cases other
  · rw [State.service, taken]

theorem join_zero_toNat (b : Byte) : (join 0x00#8 b).toNat = b.toNat :=
  (BitVec.toNat_append (0x00#8) b).trans (by simp)

/-- The default target of R912: bits 5 to 3 of the vector, times 8. -/
theorem rstTarget_default {par : Params} {v : Word} (h : par.rstTargets.lookup v = none) :
    (rstTarget par v).toNat = v.toNat % 256 / 8 % 8 * 8 := by
  have field : ∀ b : Byte, (b &&& 0x38#8).toNat = b.toNat / 8 % 8 * 8 := by decide
  have low : (loByte v).toNat = v.toNat % 256 := by simp [loByte, BitVec.extractLsb'_toNat]
  rw [rstTarget, h, Option.getD_none, join_zero_toNat, field, low]

theorem rstTarget_exception {par : Params} {v w : Word} (h : par.rstTargets.lookup v = some w) :
    rstTarget par v = w := by
  rw [rstTarget, h, Option.getD_some]

/-! ### CYC over a pass (R903) -/

theorem charge_advances (s : State) {cost : Nat} (pos : 1 ≤ cost) : s.cyc < (s.charge cost).cyc := by
  rw [charge_cyc]; omega

theorem service_advances {s : State} (ok : paramsOk s.par = true) : s.cyc < s.service.cyc := by
  simp only [paramsOk, Bool.and_eq_true, decide_eq_true_eq] at ok
  obtain ⟨⟨rst, call⟩, -⟩ := ok
  rcases takeInterrupt_eq s with ⟨mode, -⟩ | ⟨mode, -⟩
  · rw [service_of_restart mode]
    exact charge_advances { s.acknowledge with pc := rstTarget s.par s.bus.intVec } rst
  · rw [service_of_call mode]
    exact charge_advances { s.acknowledge.push16 s.acknowledge.pc with pc := s.bus.intVec } call

theorem exec_advances {i : Instr} {s t : State} (ok : paramsOk s.par = true) (h : exec i s = .next t) :
    s.cyc < t.cyc := by
  obtain ⟨cost, isCost, cyc⟩ := (exec_performed i s t h).paid
  have pos : 1 ≤ cost := by
    rcases isCost with rfl | rfl | ⟨-, rfl⟩
    · exact baseCost_pos ok i true
    · exact baseCost_pos ok i false
    · decide
  omega

/-! ### The statements -/

/-- Settles O38: each instruction answers or hangs at a port. -/
theorem onlyPortsCanHang : Obligations.OnlyPortsCanHang := by
  intro i s
  refine ⟨exec_ne_refused i s, exec_answers i s, ?_, ?_, fun x fault => ?_⟩
  · rintro port rfl; exact exec_inp_of_hang
  · rintro port rfl; exact exec_out_of_hang
  · obtain ⟨t, answer⟩ | ⟨hangs, -⟩ := exec_answers_or_hangs i s
    · rw [answer] at fault; cases fault
    · exact hangs

/-- Settles O39: the wait cycle makes CYC even before the cost is added (R908). -/
theorem cycleParityIsBaseCost : Obligations.CycleParityIsBaseCost := by
  refine ⟨fun i s t h => ?parity, fun par i => ⟨fun noException => ?default, fun cost => baseCost_of_exception, ?opcodes⟩⟩
  case parity =>
    obtain ⟨cost, isCost, cyc⟩ := (exec_performed i s t h).paid
    exact ⟨cost, isCost, cyc, by omega⟩
  case default =>
    obtain ⟨taken, untaken⟩ := baseCost_of_no_exception noException
    cases outcome : costByOutcome i with
    | true => exact ⟨taken, by simpa [outcome] using untaken⟩
    | false =>
      exact ⟨taken, by simpa [outcome, defaultCost_of_not_costByOutcome outcome] using untaken⟩
  case opcodes => rw [costByOutcome_eq_hasOutcomeOpcode]; simp [hasOutcomeOpcode]

/-- Settles O40: each way a pass can end but these two charges a cost of at least 1. -/
theorem passAdvancesCycles : Obligations.PassAdvancesCycles := by
  intro mask s u k ok h noReset noExclusion
  obtain ⟨t, drained, hend⟩ := pass_cases mask s u k h
  obtain ⟨bus, -, rfl⟩ := drain_eq s t drained
  obtain ⟨rfl, -⟩ | ⟨-, ⟨-, -, rfl⟩ | ⟨-, ⟨-, -, rfl⟩ | ⟨-, ⟨rfl, -⟩ | ⟨-, -, hexec⟩⟩⟩⟩ := hend
  · exact absurd rfl noReset
  · exact service_advances (s := { s with bus := bus }) ok
  · exact charge_advances { s with bus := bus } (Nat.le_refl 1)
  · exact absurd rfl noExclusion
  · exact exec_advances (s := { s with bus := bus, dly := false }) ok hexec

/-- Settles O44: the acknowledged state with PC forced, and its charge. -/
theorem restartDispatchResult : Obligations.RestartDispatchResult := by
  intro mask s t drained noReset req ie dly mode
  refine ⟨t.service, pass_serviced drained noReset req ie dly, ?_⟩
  rw [service_of_restart mode]
  have memory : KeepsMemory t (({ t.acknowledge with pc := rstTarget t.par t.bus.intVec }).charge t.par.intRstCost) :=
    keepsMemory_of t _ ⟨rfl, rfl, rfl⟩ rfl
  exact ⟨rstTarget_default, fun w => rstTarget_exception, rfl, rfl, rfl, rfl, rfl, rfl, rfl, rfl,
    fun r _ => by cases r <;> rfl, rfl, rfl, memory, rfl⟩

/-- Settles O45: a push from the acknowledged state, PC at the supplied address, and the charge. -/
theorem callDispatchResult : Obligations.CallDispatchResult := by
  intro mask s t drained noReset req ie dly mode
  refine ⟨t.service, pass_serviced drained noReset req ie dly, ?_⟩
  rw [service_of_call mode]
  have pushed : Stores t
      (({ t.acknowledge.push16 t.acknowledge.pc with pc := t.bus.intVec }).charge t.par.intCallCost)
      [(t.sp - 1, hiByte t.acknowledge.pc), (t.sp - 2, loByte t.acknowledge.pc)] :=
    stores_acknowledge t _ _ (push16_stores t.acknowledge _ t.acknowledge.pc ⟨rfl, rfl, rfl⟩ rfl)
  exact ⟨rfl, push16_sp_eq_sub_two t.acknowledge _, pushed, rfl, rfl, rfl, rfl, rfl, rfl, rfl,
    fun r _ => by cases r <;> rfl, rfl, rfl, rfl⟩

/-- Settles O46: `EI` sets the delay that an interrupt waits for, and of what a pass can do only an instruction clears
it. -/
theorem enableDelaysOneInstruction : Obligations.EnableDelaysOneInstruction := by
  refine ⟨fun s t h => ?_, fun mask s t u k drained h => ⟨fun quiet => ?_, fun executed notEi => ?_⟩, fun s t h => ?_⟩
  · cases h
    exact ⟨rfl, rfl, fun mask u k next => pass_ne_serviced (.inr rfl) next⟩
  · obtain ⟨kind, ended⟩ := (pass_eq_next_iff drained).mp h
    obtain ⟨bus, -, rfl⟩ := drain_eq s t drained
    rcases quiet with rfl | rfl
    · rw [act_tick kind] at ended; cases ended; rfl
    · rw [act_excluded kind] at ended; cases ended; rfl
  · subst executed
    obtain ⟨kind, ended⟩ := (pass_eq_next_iff drained).mp h
    rw [act_executed kind] at ended
    exact (exec_performed _ _ _ ended).dly notEi
  · cases h
    exact fun mask u k next => pass_ne_serviced (.inl rfl) next

/-- Settles O47: with interrupts disabled and the CPU halted, only a latched reset comes before the halt tick. -/
theorem finishedStaysFinished : Obligations.FinishedStaysFinished := by
  rintro mask s t ⟨halted, ie⟩ drained noReset
  obtain ⟨bus, -, rfl⟩ := drain_eq s t drained
  have blocked : State.interruptTakeable { s with bus := bus } = false := by simp [State.interruptTakeable, ie]
  have kind : State.kind { s with bus := bus } mask = .tick := (kind_eq_iff mask _ _).mpr ⟨noReset, blocked, halted⟩
  have memory : KeepsMemory s (State.charge { s with bus := bus } 1) := keepsMemory_of s _ ⟨rfl, rfl, rfl⟩ rfl
  exact ⟨_, (pass_eq_next_iff drained).mpr ⟨kind, act_tick kind⟩, ⟨halted, ie⟩, rfl, rfl, rfl, memory,
    fun r _ => by cases r <;> rfl, rfl⟩

/-- Settles O36: the kind of the drained state is `executed`, and what is fetched decodes from the three bytes at PC. -/
theorem stepRunsDecodedInstruction : Obligations.StepRunsDecodedInstruction := by
  rintro s t i drained noReset noInterrupt notHalted rfl allowed
  have fetched : t.fetch = decodeBytes (t.getByte t.pc) (t.getByte (t.pc + 1)) (t.getByte (t.pc + 2)) := by
    simp [State.fetch, State.fetch8]
  have mask : t.exclMask = s.exclMask := (drain_keepsGood s t drained).exclMask
  rw [← fetched, mask] at allowed
  have kind : t.kind s.exclMask = .executed :=
    (kind_eq_iff _ t _).mpr ⟨noReset, noInterrupt, notHalted, allowed⟩
  obtain ⟨wf, -⟩ := encodeDecodedBytes (t.getByte t.pc) (t.getByte (t.pc + 1)) (t.getByte (t.pc + 2))
  exact ⟨wf, by rw [step_of_drain drained, act_executed kind, fetched]⟩

/-- Settles O37: the kind of the drained state, condition by condition. -/
theorem passPriority : Obligations.PassPriority := by
  refine ⟨fun mask s t u k drained h => ?_, fun par i =>
    ⟨classOf_eq_tableClass, fun mode undefined => classOf_of_undefined_nop mode undefined,
      isUndefined_iff_tableClass i⟩⟩
  obtain ⟨kind, ended⟩ := (pass_eq_next_iff drained).mp h
  have holds : ∀ k', k = k' ↔ KindHolds mask t k' := fun k' => kind ▸ kind_eq_iff mask t k'
  refine ⟨holds .reset, ?_, ?_, ?_, ?_, ?_, ?_⟩
  · rw [← interruptTakeable_iff]; exact holds .serviced
  · rw [← interruptTakeable_eq_false_iff]; exact holds .tick
  · rw [← interruptTakeable_eq_false_iff]; exact holds .excluded
  · rw [← interruptTakeable_eq_false_iff]; exact holds .executed
  · rintro rfl; rw [act_tick kind] at ended; cases ended; rfl
  · rintro rfl; rw [act_excluded kind] at ended; cases ended; rfl

end Sys2Proof.Machine
end

section
/-! SUPPORT. The host's `exec` and `idle` (O48 to O50): the loop of R905 ends by one of its stop tests, each pass before
it has advanced CYC, and an idle cycle is a drain. -/

namespace Sys2Proof.Machine

/-! ### The stop tests (R905) -/

theorem stopAfter_eq_none {start n : Nat} {bps : List Word} {k : StepKind} {t : State}
    (h : stopAfter start n bps k t = none) : k ≠ .reset ∧ k ≠ .excluded ∧ t.cyc - start < n := by
  cases k with
  | reset | excluded => cases h
  | serviced | tick | executed =>
    simp only [stopAfter] at h
    split_ifs at h with spent
    exact ⟨by simp, by simp, by omega⟩

/-- What each stop reason says of the last pass. -/
def StopHolds (start n : Nat) (bps : List Word) (k : StepKind) (t : State) : StopReason → Prop
  | .reset => k = .reset
  | .excluded => k = .excluded
  | .budget => k ≠ .reset ∧ k ≠ .excluded ∧ n ≤ t.cyc - start
  | .breakpoint => t.pc ∈ bps

theorem stopAfter_eq_some {start n : Nat} {bps : List Word} {k : StepKind} {t : State} {r : StopReason}
    (h : stopAfter start n bps k t = some r) : StopHolds start n bps k t r := by
  cases k with
  | reset | excluded => cases h; rfl
  | serviced | tick | executed =>
    simp only [stopAfter] at h
    split_ifs at h with spent hit
    · cases h; exact ⟨by simp, by simp, spent⟩
    · cases h; exact List.contains_iff_mem.mp hit

/-- Once the budget is spent, no pass is followed by another. -/
theorem stopAfter_of_spent {start n : Nat} (bps : List Word) (k : StepKind) {t : State} (spent : n ≤ t.cyc - start) :
    ∃ r, stopAfter start n bps k t = some r := by
  cases k with
  | reset | excluded => exact ⟨_, rfl⟩
  | serviced | tick | executed => exact ⟨.budget, if_pos spent⟩

/-! ### The loop -/

theorem execLoop_of_stop {n start fuel : Nat} {mask : Byte} {bps : List Word} {s t : State} {k : StepKind}
    {r : StopReason} (passed : pass mask s = .next (k, t)) (stop : stopAfter start n bps k t = some r) :
    execLoop n mask bps start (fuel + 1) s = .next (r, t) := by
  simp only [execLoop, passed, stop]

theorem execLoop_of_go_on {n start fuel : Nat} {mask : Byte} {bps : List Word} {s t : State} {k : StepKind}
    (passed : pass mask s = .next (k, t)) (goOn : stopAfter start n bps k t = none) :
    execLoop n mask bps start (fuel + 1) s = execLoop n mask bps start fuel t := by
  simp only [execLoop, passed, goOn]

theorem act_ne_refused (mask : Byte) (t : State) (x : Refusal) : t.act mask ≠ .refused x := by
  unfold State.act
  split
  case h_1 => split <;> simp
  case h_5 => exact exec_ne_refused _ _ x
  all_goals simp

theorem pass_ne_refused (mask : Byte) (s : State) (x : Refusal) : pass mask s ≠ .refused x := by
  intro h
  unfold pass at h
  split at h
  · cases h
  · split at h
    · cases h
    · cases h
    · rename_i ended
      exact act_ne_refused mask _ _ ended

/-- A pass that the loop goes on after has kept the parameters and advanced CYC, within the budget. -/
theorem go_on_advances {n start : Nat} {mask : Byte} {bps : List Word} {s t : State} {k : StepKind}
    (ok : paramsOk s.par = true) (passed : pass mask s = .next (k, t)) (goOn : stopAfter start n bps k t = none) :
    paramsOk t.par = true ∧ s.cyc < t.cyc ∧ t.cyc - start < n := by
  obtain ⟨noReset, noExclusion, within⟩ := stopAfter_eq_none goOn
  have par := (pass_keepsGood mask s t k passed).par
  exact ⟨par ▸ ok, passAdvancesCycles mask s t k ok passed noReset noExclusion, within⟩

/-- The loop's fuel outlasts its budget, so that it is never refused. -/
theorem execLoop_ne_refused {n start : Nat} {mask : Byte} {bps : List Word} (fuel : Nat) (s : State)
    (ok : paramsOk s.par = true) (started : start ≤ s.cyc) (fuelled : 0 < fuel) (enough : start + n < s.cyc + fuel)
    (x : Refusal) : execLoop n mask bps start fuel s ≠ .refused x := by
  induction fuel generalizing s with
  | zero => exact absurd fuelled (Nat.lt_irrefl 0)
  | succ fuel ih =>
    cases passed : pass mask s with
    | fault y => simp [execLoop, passed]
    | refused y => exact absurd passed (pass_ne_refused mask s y)
    | next answer =>
      obtain ⟨k, t⟩ := answer
      cases stop : stopAfter start n bps k t with
      | some r => rw [execLoop_of_stop passed stop]; simp
      | none =>
        obtain ⟨ok', advanced, within⟩ := go_on_advances ok passed stop
        rw [execLoop_of_go_on passed stop]
        exact ih t ok' (by omega) (by omega) (by omega)

/-- What the stop reason of a call that started at `start` says of the whole call. -/
def ReasonHolds (start n : Nat) (mask : Byte) (bps : List Word) (s u : State) : StopReason → Prop
  | .budget => start + n ≤ u.cyc
  | .breakpoint => u.pc ∈ bps
  | .excluded => ∃ m v, PassesLeadTo mask m s v ∧ v.drain = some u ∧ classOf u.par u.fetch &&& mask ≠ 0#8
  | .reset => ∃ m v w, PassesLeadTo mask m s v ∧ v.drain = some w ∧ w.bus.rstReq = true ∧ resetMachine w = some u

/-- A pass that did not end the call may be put before it. -/
theorem reasonHolds_of_pass {start n : Nat} {mask : Byte} {bps : List Word} {s t u : State} {k : StepKind}
    {r : StopReason} (passed : pass mask s = .next (k, t)) (noReset : k ≠ .reset) (noExclusion : k ≠ .excluded)
    (h : ReasonHolds start n mask bps t u r) : ReasonHolds start n mask bps s u r := by
  have first {m v} (rest : PassesLeadTo mask m t v) : PassesLeadTo mask (m + 1) s v :=
    ⟨k, t, passed, noReset, noExclusion, rest⟩
  cases r with
  | budget | breakpoint => exact h
  | excluded =>
    obtain ⟨m, v, rest, found⟩ := h
    exact ⟨m + 1, v, first rest, found⟩
  | reset =>
    obtain ⟨m, v, w, rest, found⟩ := h
    exact ⟨m + 1, v, w, first rest, found⟩

/-- The pass that ends a call bears its stop reason out. -/
theorem reasonHolds_of_stop {start n : Nat} {mask : Byte} {bps : List Word} {s t : State} {k : StepKind}
    {r : StopReason} (ok : paramsOk s.par = true) (started : start ≤ s.cyc) (passed : pass mask s = .next (k, t))
    (stop : stopAfter start n bps k t = some r) : ReasonHolds start n mask bps s t r := by
  have holds := stopAfter_eq_some stop
  cases r with
  | budget =>
    obtain ⟨noReset, noExclusion, spent⟩ := holds
    have advanced := passAdvancesCycles mask s t k ok passed noReset noExclusion
    show start + n ≤ t.cyc
    omega
  | breakpoint => exact holds
  | excluded =>
    obtain rfl : k = .excluded := holds
    obtain ⟨v, drained, -⟩ := pass_cases mask s t _ passed
    obtain ⟨kind, ended⟩ := (pass_eq_next_iff drained).mp passed
    obtain ⟨-, -, -, excluded⟩ := (kind_eq_iff mask v _).mp kind
    rw [act_excluded kind] at ended
    cases ended
    exact ⟨0, s, rfl, drained, excluded⟩
  | reset =>
    obtain rfl : k = .reset := holds
    obtain ⟨v, drained, ⟨-, latched, done⟩ | ⟨-, ⟨other, -⟩ | ⟨-, ⟨other, -⟩ | ⟨-, ⟨other, -⟩ | ⟨other, -⟩⟩⟩⟩⟩ :=
      pass_cases mask s t _ passed
    · exact ⟨0, s, v, rfl, drained, latched, done⟩
    all_goals cases other

/-- Whatever ends the loop, its stop reason holds of the call. -/
theorem execLoop_reasonHolds {n start : Nat} {mask : Byte} {bps : List Word} {u : State} {r : StopReason} (fuel : Nat)
    (s : State) (ok : paramsOk s.par = true) (started : start ≤ s.cyc)
    (h : execLoop n mask bps start fuel s = .next (r, u)) : ReasonHolds start n mask bps s u r := by
  induction fuel generalizing s with
  | zero => cases h
  | succ fuel ih =>
    cases passed : pass mask s with
    | fault y => simp only [execLoop, passed] at h; cases h
    | refused y => exact absurd passed (pass_ne_refused mask s y)
    | next answer =>
      obtain ⟨k, t⟩ := answer
      cases stop : stopAfter start n bps k t with
      | some r' =>
        rw [execLoop_of_stop passed stop] at h
        cases h
        exact reasonHolds_of_stop ok started passed stop
      | none =>
        obtain ⟨noReset, noExclusion, -⟩ := stopAfter_eq_none stop
        obtain ⟨ok', advanced, -⟩ := go_on_advances ok passed stop
        rw [execLoop_of_go_on passed stop] at h
        exact reasonHolds_of_pass passed noReset noExclusion (ih t ok' (by omega) h)

/-! ### The statements -/

/-- Settles O48: one pass that does not end the call already spends a budget of 1. -/
theorem singleStepIsOnePass : Obligations.SingleStepIsOnePass := by
  intro mask bps s ok
  refine ⟨fun k u passed => ?_, fun k u passed => ?_⟩
  · have stops : ∃ r, stopAfter s.cyc 1 [] k u = some r := by
      cases stop : stopAfter s.cyc 1 [] k u with
      | some r => exact ⟨r, rfl⟩
      | none =>
        obtain ⟨-, advanced, within⟩ := go_on_advances ok passed stop
        omega
    obtain ⟨r, stop⟩ := stops
    exact ⟨r, execLoop_of_stop passed stop⟩
  · obtain ⟨r, stop⟩ := stopAfter_of_spent (start := s.cyc) bps k (Nat.zero_le (u.cyc - s.cyc))
    exact ⟨r, execLoop_of_stop passed stop⟩

/-- Settles O49, by induction on the loop's fuel. -/
theorem execEndsForItsReason : Obligations.ExecEndsForItsReason := by
  intro n mask bps s ok
  have reason {r u} (h : runExec n mask bps s = .next (r, u)) : ReasonHolds s.cyc n mask bps s u r :=
    execLoop_reasonHolds (n + 1) s ok (Nat.le_refl _) h
  exact ⟨execLoop_ne_refused (n + 1) s ok (Nat.le_refl _) (Nat.succ_pos n) (by omega),
    fun _ h => reason h, fun _ h => reason h, fun _ h => reason h, fun _ h => reason h⟩

/-- Settles O50, by induction on the cycles: each is a drain, which changes the bus alone. -/
theorem idleAdvancesExactly : Obligations.IdleAdvancesExactly := by
  intro n
  induction n with
  | zero =>
    intro s t h
    obtain ⟨bus, -, rfl⟩ := drain_eq s t h
    rfl
  | succ n ih =>
    intro s t h
    simp only [idle] at h
    cases drained : s.drain with
    | none => rw [drained] at h; cases h
    | some u =>
      rw [drained] at h
      obtain ⟨bus, -, rfl⟩ := drain_eq s u drained
      rw [ih _ t h]
      simp only [State.mk.injEq, true_and, and_true]
      omega

end Sys2Proof.Machine
end

section
/-! SUPPORT. The scheduler's drain and a driven pin (O51 to O53). The drain's snapshot is a sort of the due events. Over
callbacks that do no more than record the call and add events with fresh numbers, each event of a snapshot is still
pending at its turn, and what was added is not; the two statements about drains are special cases of that. -/

namespace Sys2Proof.Machine

/-! ### The snapshot (R933) -/

theorem insertEvent_perm (e : Event) (es : List Event) : (insertEvent e es).Perm (e :: es) := by
  induction es with
  | nil => exact .refl _
  | cons x xs ih =>
    unfold insertEvent
    split
    · exact (ih.cons x).trans (.swap e x xs)
    · exact .refl _

theorem sortEvents_perm (es : List Event) : (sortEvents es).Perm es := by
  induction es with
  | nil => exact .refl _
  | cons e es ih => exact (insertEvent_perm e _).trans (ih.cons e)

/-- `e` fires before `e'`, as a proposition (R933). -/
def Event.Precedes (e e' : Event) : Prop := e.trigger < e'.trigger ∨ (e.trigger = e'.trigger ∧ e.seq < e'.seq)

theorem before_iff (e e' : Event) : e.before e' = true ↔ e.Precedes e' := by
  simp [Event.before, Event.Precedes]

theorem Event.Precedes.trans {e e' e'' : Event} (h : e.Precedes e') (h' : e'.Precedes e'') : e.Precedes e'' := by
  unfold Event.Precedes at *
  omega

/-- Of two events with different numbers one precedes the other. -/
theorem precedes_of_not_before {e e' : Event} (h : ¬ e'.before e = true) (ne : e.seq ≠ e'.seq) : e.Precedes e' := by
  rw [before_iff] at h
  unfold Event.Precedes at *
  omega

theorem insertEvent_sorted (e : Event) (es : List Event) (sorted : es.Pairwise Event.Precedes)
    (fresh : ∀ x ∈ es, e.seq ≠ x.seq) : (insertEvent e es).Pairwise Event.Precedes := by
  induction es with
  | nil => exact List.pairwise_singleton _ _
  | cons x xs ih =>
    obtain ⟨hx, hxs⟩ := List.pairwise_cons.mp sorted
    obtain ⟨freshX, freshXs⟩ := List.forall_mem_cons.mp fresh
    unfold insertEvent
    split
    case isTrue first =>
      refine List.pairwise_cons.mpr ⟨fun y hy => ?_, ih hxs freshXs⟩
      obtain rfl | hy := List.mem_cons.mp ((insertEvent_perm e xs).mem_iff.mp hy)
      · exact (before_iff _ _).mp first
      · exact hx y hy
    case isFalse last =>
      have hex : e.Precedes x := precedes_of_not_before last freshX
      exact List.pairwise_cons.mpr ⟨List.forall_mem_cons.mpr ⟨hex, fun y hy => hex.trans (hx y hy)⟩, sorted⟩

theorem sortEvents_sorted (es : List Event) (distinct : (es.map (·.seq)).Nodup) :
    (sortEvents es).Pairwise Event.Precedes := by
  induction es with
  | nil => exact .nil
  | cons e es ih =>
    obtain ⟨fresh, distinct'⟩ := List.nodup_cons.mp distinct
    refine insertEvent_sorted e _ (ih distinct') fun x hx same => fresh ?_
    exact List.mem_map.mpr ⟨x, (sortEvents_perm es).mem_iff.mp hx, same.symm⟩

/-- Ordered events have different numbers. -/
theorem EventsOrdered.nodup {bus : Bus} (ordered : EventsOrdered bus) : (bus.events.map (·.seq)).Nodup :=
  ordered.1.imp fun h => Nat.ne_of_lt h

theorem due_perm (bus : Bus) (now : Int) :
    (bus.due now).Perm (bus.events.filter fun e => e.trigger ≤ now) := sortEvents_perm _

theorem due_nodup {bus : Bus} (ordered : EventsOrdered bus) (now : Int) :
    ((bus.due now).map (·.seq)).Nodup :=
  ((due_perm bus now).map _).nodup_iff.mpr (ordered.nodup.sublist (List.filter_sublist.map _))

theorem mem_due {bus : Bus} {now : Int} {e : Event} : e ∈ bus.due now ↔ e ∈ bus.events ∧ e.trigger ≤ now := by
  rw [(due_perm bus now).mem_iff]
  simp

/-! ### A drain whose callbacks add events (R931, R933) -/

/-- The bus after a callback that records its call and adds events, numbered by `adds` from a first number on, using up
`count` numbers. -/
def Bus.afterCall (bus : Bus) (adds : Nat → Int → Nat → List Event) (count dev : Nat) (x : Int) : Bus :=
  { bus with
    events := bus.events ++ adds dev x bus.nextSeq
    nextSeq := bus.nextSeq + count
    calls := bus.calls ++ [.fired dev x] }

/-- What the callbacks of a list of events add, from a first number on. -/
def addedBy (adds : Nat → Int → Nat → List Event) (count : Nat) : Nat → List Event → List Event
  | _, [] => []
  | n, e :: es => adds e.dev e.param n ++ addedBy adds count (n + count) es

/-- A pending event of a number used once is fired at its turn, and is then no longer pending. -/
theorem fireIfPending_of_mem (fire : Nat → Int → Bus → Option Bus) {e : Event} {bus : Bus} (h : e ∈ bus.events) :
    fireIfPending fire e bus =
      fire e.dev e.param { bus with events := bus.events.filter fun x => x.seq ≠ e.seq } := by
  have pending : (bus.events.any fun x => x.seq = e.seq) = true := List.any_eq_true.mpr ⟨e, h, by simp⟩
  rw [fireIfPending, if_pos pending]

/-- The drain of a snapshot, turn by turn: every event is fired once, in order, and what the callbacks add stays. -/
theorem seqM_fire_afterCall {fire : Nat → Int → Bus → Option Bus} {adds : Nat → Int → Nat → List Event} {count : Nat}
    (fresh : ∀ dev x n, ∀ e ∈ adds dev x n, n ≤ e.seq ∧ e.seq < n + count) (es : List Event) (bus : Bus)
    (fires : ∀ e ∈ es, ∀ b, fire e.dev e.param b = some (b.afterCall adds count e.dev e.param))
    (distinct : (es.map (·.seq)).Nodup) (pending : ∀ e ∈ es, e ∈ bus.events)
    (given : ∀ e ∈ bus.events, e.seq < bus.nextSeq) :
    seqM (fireIfPending fire) es bus =
      some { bus with
        events := (bus.events.filter fun x => x.seq ∉ es.map (·.seq)) ++ addedBy adds count bus.nextSeq es
        nextSeq := bus.nextSeq + count * es.length
        calls := bus.calls ++ es.map fun e => .fired e.dev e.param } := by
  induction es generalizing bus with
  | nil => simp [seqM, addedBy]
  | cons e es ih =>
    obtain ⟨firesE, firesEs⟩ := List.forall_mem_cons.mp fires
    obtain ⟨pendingE, pendingEs⟩ := List.forall_mem_cons.mp pending
    obtain ⟨once, distinct'⟩ := List.nodup_cons.mp distinct
    simp only [seqM, fireIfPending_of_mem fire pendingE, firesE]
    have others : ∀ y ∈ es, y.seq ≠ e.seq := fun y hy same => once (List.mem_map.mpr ⟨y, hy, same⟩)
    rw [ih _ firesEs distinct' (fun y hy => ?_) fun y hy => ?_]
    · have kept : ((adds e.dev e.param bus.nextSeq).filter fun x => x.seq ∉ es.map (·.seq)) =
          adds e.dev e.param bus.nextSeq := by
        refine List.filter_eq_self.mpr fun x hx => ?_
        have later := (fresh e.dev e.param bus.nextSeq x hx).1
        have earlier : ∀ y ∈ es, y.seq ≠ x.seq := fun y hy same => by
          have := given y (pendingEs y hy)
          omega
        simpa using earlier
      have left : ((bus.events.filter fun x => x.seq ≠ e.seq).filter fun x => x.seq ∉ es.map (·.seq)) =
          bus.events.filter fun x => x.seq ∉ (e :: es).map (·.seq) := by
        rw [List.filter_filter]
        exact List.filter_congr fun x _ => by simp [Bool.and_comm]
      have used : bus.nextSeq + count + count * es.length = bus.nextSeq + count * (e :: es).length := by
        rw [List.length_cons]; ring
      simp only [Bus.afterCall, List.filter_append, left, kept, used, addedBy, List.append_assoc, List.map_cons,
        List.singleton_append]
    · exact List.mem_append_left _ (List.mem_filter.mpr ⟨pendingEs y hy, by simpa using others y hy⟩)
    · rcases List.mem_append.mp hy with old | new
      · exact Nat.lt_add_right _ (given y (List.mem_of_mem_filter old))
      · exact (fresh _ _ _ y new).2

/-- So a drain fires what is due, in order, and leaves what is not due and what the callbacks added (R931, R933). -/
theorem drainWith_afterCall {fire : Nat → Int → Bus → Option Bus} {adds : Nat → Int → Nat → List Event} {count : Nat}
    (fresh : ∀ dev x n, ∀ e ∈ adds dev x n, n ≤ e.seq ∧ e.seq < n + count) (now : Int) {bus : Bus}
    (ordered : EventsOrdered bus)
    (fires : ∀ e ∈ bus.events, ∀ b, fire e.dev e.param b = some (b.afterCall adds count e.dev e.param)) :
    drainWith fire now bus =
      some { bus with
        events := (bus.events.filter fun e => now < e.trigger) ++ addedBy adds count bus.nextSeq (bus.due now)
        nextSeq := bus.nextSeq + count * (bus.due now).length
        calls := bus.calls ++ (bus.due now).map fun e => .fired e.dev e.param } := by
  have left : (bus.events.filter fun x => x.seq ∉ (bus.due now).map (·.seq)) =
      bus.events.filter fun e => now < e.trigger := by
    refine List.filter_congr fun x hx => decide_eq_decide.mpr ?_
    have once : ∀ y ∈ bus.events, y.seq = x.seq → y = x := fun y hy same =>
      List.inj_on_of_nodup_map ordered.nodup hy hx same
    constructor
    · intro notDue
      by_contra early
      exact notDue (List.mem_map.mpr ⟨x, mem_due.mpr ⟨hx, by omega⟩, rfl⟩)
    · intro later isDue
      obtain ⟨y, hy, same⟩ := List.mem_map.mp isDue
      obtain ⟨hy, early⟩ := mem_due.mp hy
      obtain rfl := once y hy same
      omega
  rw [drainWith, seqM_fire_afterCall fresh (bus.due now) bus (fun e he => fires e (mem_due.mp he).1)
    (due_nodup ordered now) (fun e he => (mem_due.mp he).1) ordered.2, left]

/-- Callbacks that add nothing add nothing in all. -/
theorem addedBy_nil (n : Nat) (es : List Event) : addedBy (fun _ _ _ => []) 0 n es = [] := by
  induction es generalizing n with
  | nil => rfl
  | cons e es ih => exact ih n

/-- The event that a callback adds by `addEvent` with a fixed trigger (R931). -/
def addsOne (trigger : Int) (dev : Nat) (x : Int) (n : Nat) : List Event := [⟨dev, trigger, x, n⟩]

theorem addedBy_addsOne (trigger : Int) (n : Nat) (es : List Event) :
    (addedBy (addsOne trigger) 1 n es).map (fun e => (e.dev, e.trigger, e.param)) =
      es.map fun e => (e.dev, trigger, e.param) := by
  induction es generalizing n with
  | nil => rfl
  | cons e es ih => simp [addedBy, addsOne, ih]

/-! ### Platform devices without a reaction -/

/-- A device's callback that has no reaction is recorded (R935). -/
theorem fire_of_quiet {asm : Assembly} {dev : Nat}
    (h : ∃ r, kindOf asm dev = some (.platform r) ∧ r.onFire = []) (now x : Int) (bus : Bus) :
    fire asm now dev x bus = some (bus.record (.fired dev x)) := by
  obtain ⟨r, hkind, hquiet⟩ := h
  have unlisted : r.onFire.lookup x = none := by rw [hquiet]; rfl
  simp only [fire, hkind, runActions_unlisted unlisted]

/-- A notification that has no reaction is recorded, with the level of the node (R942). -/
theorem notifyChange_of_quiet {asm : Assembly} {q : PinId}
    (h : ∃ r, kindOf asm q.dev = some (.platform r) ∧ r.onNotify = []) (now : Int) (bus : Bus) :
    notifyChange asm now q bus = some (bus.record (.notified q.dev q.idx (bus.queryNode asm q))) := by
  obtain ⟨r, hkind, hquiet⟩ := h
  have unlisted : r.onNotify.lookup q.idx = none := by rw [hquiet]; rfl
  simp only [notifyChange, notifyDepth, notifyUpTo, handleNotify, hkind, runActions_unlisted unlisted]

/-- A pin reads the level of its node (R943). -/
theorem queryNode_attached {asm : Assembly} {p : PinId} {ps : List PinId} (h : nodeOf asm p = some ps) (bus : Bus) :
    bus.queryNode asm p = bus.nodeLevel ps := by
  simp only [Bus.queryNode, h]

/-- Recording a call changes no node's level. -/
theorem nodeLevel_record (bus : Bus) (c : PlatformCall) (ps : List PinId) :
    (bus.record c).nodeLevel ps = bus.nodeLevel ps := rfl

/-- Notifying a list of such pins of one node records them in order, each with the node's level. -/
theorem seqM_notifyChange_of_quiet (asm : Assembly) (now : Int) (ps qs : List PinId) (bus : Bus)
    (h : ∀ q ∈ qs, nodeOf asm q = some ps ∧ ∃ r, kindOf asm q.dev = some (.platform r) ∧ r.onNotify = []) :
    seqM (notifyChange asm now) qs bus =
      some { bus with calls := bus.calls ++ qs.map fun q => .notified q.dev q.idx (bus.nodeLevel ps) } := by
  induction qs generalizing bus with
  | nil => simp [seqM]
  | cons q qs ih =>
    obtain ⟨⟨attached, quiet⟩, hqs⟩ := List.forall_mem_cons.mp h
    simp only [seqM, notifyChange_of_quiet quiet, queryNode_attached attached, ih _ hqs, nodeLevel_record]
    simp only [Bus.record, List.append_assoc, List.singleton_append, List.map_cons]

/-! ### The statements -/

/-- Settles O51: the callbacks of quiet devices add no event. -/
theorem drainFiresDueInOrder : Obligations.DrainFiresDueInOrder := by
  intro asm now bus ordered
  have distinct := ordered.nodup.sublist (List.filter_sublist (p := fun e => decide (e.trigger ≤ now)).map _)
  refine ⟨sortEvents_sorted _ distinct, due_perm bus now, fun quiet => ?_⟩
  have fires : ∀ e ∈ bus.events, ∀ b : Bus,
      fire asm now e.dev e.param b = some (b.afterCall (fun _ _ _ => []) 0 e.dev e.param) := by
    intro e he b
    rw [fire_of_quiet (quiet e he), Bus.afterCall, List.append_nil]
    rfl
  rw [runSchedule, drainWith_afterCall (by simp) now ordered fires, addedBy_nil]
  simp

/-- Settles O52: each callback adds one event, whose number is above every number of the snapshot. -/
theorem addedEventsWait : Obligations.AddedEventsWait := by
  intro now trigger bus ordered
  have fresh : ∀ (dev : Nat) (x : Int) (n : Nat), ∀ e ∈ addsOne trigger dev x n, n ≤ e.seq ∧ e.seq < n + 1 := by
    simp [addsOne]
  refine ⟨_, drainWith_afterCall fresh now ordered fun e _ b => rfl, rfl, ?_⟩
  rw [List.map_append, addedBy_addsOne]

/-- Settles O53: the three ways through `driveWith`, and in the last the notifications one by one. -/
theorem driveNotifiesInWiringOrder : Obligations.DriveNotifiesInWiringOrder := by
  intro asm now p v bus ps attached
  refine ⟨fun same => ?_, fun changed stays => ?_, fun changed moves quiet => ?_⟩
  · rw [drive, driveWith, if_pos same]
  · simp only [drive, driveWith, if_neg changed, queryNode_attached attached, attached, if_pos stays]
  · simp only [drive, driveWith, if_neg changed, queryNode_attached attached, attached, if_neg moves]
    exact seqM_notifyChange_of_quiet asm now ps _ (bus.setLevel p v) fun q hq => quiet q (List.mem_of_mem_filter hq)

end Sys2Proof.Machine
end

section
/-! SUPPORT. The four peripherals (O54 to O57). Each statement is what a handler or a callback of the device does, its
output pins unattached, so that driving them stores a level and notifies no one. Under `idle` the divider's count of
toggles follows CYC, which every drain keeps so. -/

namespace Sys2Proof.Machine

theorem fields_of_device {bus : Bus} {dev : Nat} {d : DeviceState} (h : bus.device? dev = some d) :
    bus.fields? dev = some d.fields := by
  rw [Bus.fields?, h, Option.map_some]

/-! ### The serial decoder (R962) -/

theorem foldl_earlier_ne_none (es : List Event) (t : Int) :
    es.foldl (fun t e => earlier t e.trigger) (some t) ≠ none := by
  induction es generalizing t with
  | nil => simp
  | cons e es ih => exact ih _

/-- A device has a remaining time exactly when it has a pending event (R934). -/
theorem remainingTime_eq_none_iff (bus : Bus) (dev : Nat) (now : Int) :
    bus.remainingTime dev now = none ↔ ∀ e ∈ bus.events, e.dev ≠ dev := by
  rw [Bus.remainingTime, Option.map_eq_none_iff]
  cases own : bus.events.filter fun e => e.dev = dev with
  | nil => simpa using List.filter_eq_nil_iff.mp own
  | cons e es =>
    obtain ⟨he, hdev⟩ := List.mem_filter.mp (own ▸ List.mem_cons_self : e ∈ bus.events.filter fun e => e.dev = dev)
    have pending : ¬ ∀ e ∈ bus.events, e.dev ≠ dev := fun without => without e he (by simpa using hdev)
    exact iff_of_false (foldl_earlier_ne_none es e.trigger) pending

section
variable {asm : Assembly} {dev delay zmax zrun : Nat} {phase last : Bool} {bus : Bus}

theorem notifyChange_decoder_input (kind : kindOf asm dev = some (.decoder delay zmax))
    (fields : bus.fields? dev = some (.decoder phase last zrun)) (now : Int) :
    notifyChange asm now ⟨dev, 0⟩ bus = some (decoderNotified asm now dev delay last bus) := by
  simp only [notifyChange, notifyDepth, notifyUpTo, handleNotify, kind, fields, if_true]

theorem notifyChange_decoder_output (kind : kindOf asm dev = some (.decoder delay zmax))
    (fields : bus.fields? dev = some (.decoder phase last zrun)) (now : Int) {pin : Nat} (output : pin ≠ 0) :
    notifyChange asm now ⟨dev, pin⟩ bus = some bus := by
  simp only [notifyChange, notifyDepth, notifyUpTo, handleNotify, kind, fields, if_neg output]

theorem decoderNotified_closed (now : Int) (closed : ∀ e ∈ bus.events, e.dev ≠ dev) :
    decoderNotified asm now dev delay last bus =
      if bus.queryNode asm ⟨dev, 0⟩ = last then bus else bus.addEvent dev (now + delay) 0 := by
  simp only [decoderNotified, (remainingTime_eq_none_iff bus dev now).mpr closed]

theorem decoderNotified_open (now : Int) (opened : ∃ e ∈ bus.events, e.dev = dev) :
    decoderNotified asm now dev delay last bus = bus := by
  unfold decoderNotified
  split
  case h_1 without =>
    obtain ⟨e, he, hdev⟩ := opened
    exact absurd hdev ((remainingTime_eq_none_iff bus dev now).mp without e he)
  case h_2 => rfl

theorem fire_decoder (kind : kindOf asm dev = some (.decoder delay zmax))
    (fields : bus.fields? dev = some (.decoder phase last zrun)) (now param : Int) :
    fire asm now dev param bus = decoderFire asm now dev zmax phase last zrun bus := by
  simp only [fire, kind, fields]

/-- A sample at another level than the last: the data pin takes the bit and the clock pin changes. -/
theorem decoderFire_bit {levels : List Bool} (device : bus.device? dev = some ⟨levels, .decoder phase last zrun⟩)
    (pins : levels.length = 3) (data : nodeOf asm ⟨dev, 1⟩ = none) (clk : nodeOf asm ⟨dev, 2⟩ = none)
    (edge : bus.queryNode asm ⟨dev, 0⟩ ≠ last) (now : Int) :
    ∃ bus', decoderFire asm now dev zmax phase last zrun bus = some bus' ∧
      bus'.device? dev =
        some ⟨(levels.set 1 (bus.queryNode asm ⟨dev, 0⟩ ^^ phase)).set 2 (!bus.level ⟨dev, 2⟩),
          .decoder phase (bus.queryNode asm ⟨dev, 0⟩) 0⟩ ∧
      bus'.events = bus.events := by
  have sampled := device_setFields bus dev (.decoder phase (bus.queryNode asm ⟨dev, 0⟩) 0) _ device
  obtain ⟨mid, driveData, midDevice, midEvents, -⟩ := driveWith_own (notifyChange asm now) asm dev 1
    (bus.queryNode asm ⟨dev, 0⟩ ^^ phase) _ _ data sampled (by simp [pins])
  obtain ⟨bus', driveClk, device', events', -⟩ := driveWith_own (notifyChange asm now) asm dev 2
    (!mid.level ⟨dev, 2⟩) _ _ clk midDevice (by simp [pins])
  have sameClk : mid.level ⟨dev, 2⟩ = bus.level ⟨dev, 2⟩ := by
    rw [level_eq mid ⟨dev, 2⟩ _ midDevice, level_eq bus ⟨dev, 2⟩ _ device, List.getElem?_set_ne (by simp)]
  refine ⟨bus', ?_, sameClk ▸ device', events'.trans midEvents⟩
  simp only [decoderFire, if_neg edge, drive, driveData, driveClk]

end

/-! ### The level sampler (R963) -/

theorem notifyChange_sampler_clock {asm : Assembly} {dev : Nat} {latch prev : Bool} {bus : Bus}
    (kind : kindOf asm dev = some .sampler) (fields : bus.fields? dev = some (.sampler latch prev)) (now : Int) :
    ∃ notify, notifyChange asm now ⟨dev, 1⟩ bus = samplerNotified notify asm dev latch prev bus := by
  simp only [notifyChange, notifyDepth, notifyUpTo, handleNotify, kind, fields, if_true]
  exact ⟨_, rfl⟩

/-- The latch after a clock notification: the input on a falling edge, else as it was (R963). -/
def nextLatch (prev clock d latch : Bool) : Bool := if prev && !clock then d else latch

/-- The handler of the clock, the output unattached. -/
theorem samplerNotified_unattached {asm : Assembly} {dev : Nat} {latch prev : Bool} {bus : Bus} {levels : List Bool}
    (device : bus.device? dev = some ⟨levels, .sampler latch prev⟩) (pins : levels.length = 3)
    (unattached : nodeOf asm ⟨dev, 2⟩ = none) (notify : PinId → Bus → Option Bus) {clock latch' : Bool}
    (hclock : clock = bus.queryNode asm ⟨dev, 1⟩)
    (hlatch : latch' = nextLatch prev clock (bus.queryNode asm ⟨dev, 0⟩) latch) :
    ∃ bus', samplerNotified notify asm dev latch prev bus = some bus' ∧
      bus'.device? dev = some ⟨levels.set 2 (samplerOut clock latch'), .sampler latch' clock⟩ := by
  subst hclock hlatch
  obtain ⟨bus', driven, device', -⟩ := driveWith_own notify asm dev 2 (samplerOut (bus.queryNode asm ⟨dev, 1⟩)
    (nextLatch prev (bus.queryNode asm ⟨dev, 1⟩) (bus.queryNode asm ⟨dev, 0⟩) latch)) _ _ unattached
    (device_setFields bus dev _ _ device) (by simp [pins])
  exact ⟨bus', driven, device'⟩

/-! ### The auto-reset driver (R964) -/

section
variable {asm : Assembly} {dev limit : Nat} {active : Bool}

theorem fire_autoReset (kind : kindOf asm dev = some (.autoReset limit active)) (now param : Int) (bus : Bus) :
    fire asm now dev param bus = drive asm now ⟨dev, 0⟩ (!active) bus := by
  simp only [fire, kind, inactive]

theorem deactivate_autoReset (kind : kindOf asm dev = some (.autoReset limit active)) (now : Int) (bus : Bus) :
    deactivate asm now dev bus = drive asm now ⟨dev, 0⟩ (!active) (bus.removeAllEvents dev) := by
  simp only [deactivate, deactivateWith, kind, inactive, drive]

theorem activate_autoReset (kind : kindOf asm dev = some (.autoReset limit active)) (now : Int) (bus : Bus) :
    activate asm now dev bus =
      (drive asm now ⟨dev, 0⟩ active bus).map fun bus' =>
        (bus'.removeAllEvents dev).addEvent dev (now + limit) 0 := by
  simp only [activate, activateWith, kind, drive]
  cases driveWith (notifyChange asm now) asm ⟨dev, 0⟩ active bus <;> rfl

/-- Of a device whose events were cancelled, the one added after is its only one. -/
theorem filter_addEvent_removeAllEvents (bus : Bus) (dev : Nat) (trigger param : Int) :
    (((bus.removeAllEvents dev).addEvent dev trigger param).events.filter fun e => e.dev = dev) =
      [⟨dev, trigger, param, bus.nextSeq⟩] := by
  have cancelled : ((bus.events.filter fun e => e.dev ≠ dev).filter fun e => e.dev = dev) = [] := by
    simp [List.filter_filter]
  simp only [Bus.addEvent, Bus.removeAllEvents, List.filter_append, cancelled]
  simp

/-- Driving the one pin of a device, unattached. -/
theorem drive_onlyPin {bus : Bus} {levels : List Bool} {fields : DeviceFields}
    (unattached : nodeOf asm ⟨dev, 0⟩ = none) (device : bus.device? dev = some ⟨levels, fields⟩)
    (onePin : levels.length = 1) (now : Int) (v : Bool) :
    ∃ bus', drive asm now ⟨dev, 0⟩ v bus = some bus' ∧ bus'.device? dev = some ⟨[v], fields⟩ ∧
      bus'.events = bus.events ∧ bus'.nextSeq = bus.nextSeq := by
  obtain ⟨l, rfl⟩ := List.length_eq_one_iff.mp onePin
  exact driveWith_own (notifyChange asm now) asm dev 0 v bus ⟨[l], fields⟩ unattached device Nat.one_pos

end

/-! ### The frequency divider (R961) -/

/-- A divider of period `n` and nothing else. -/
def lone (n : Nat) : Assembly := ⟨[⟨.divider n, 1⟩], [], [], []⟩

/-- A divider that has toggled `j` times since reset: its level, and its next toggle at the next multiple of the period. -/
structure Toggled (n j : Nat) (bus : Bus) : Prop where
  device : bus.device? 0 = some ⟨[decide (j % 2 = 0)], .divider (decide (j % 2 = 0))⟩
  events : ∃ seq, bus.events = [⟨0, (n * (j + 1) : Nat), (n * (j + 1) : Nat), seq⟩]

/-- A divider's callback toggles the pin and the field and arms the next trigger. -/
theorem fire_lone (n : Nat) (now t : Int) {bus : Bus} {l : Bool} (device : bus.device? 0 = some ⟨[l], .divider l⟩)
    (noEvents : bus.events = []) :
    ∃ bus' seq, fire (lone n) now 0 t bus = some bus' ∧ bus'.device? 0 = some ⟨[!l], .divider (!l)⟩ ∧
      bus'.events = [⟨0, t + n, t + n, seq⟩] := by
  have kind : kindOf (lone n) 0 = some (.divider n) := rfl
  obtain ⟨mid, driven, midDevice, midEvents, -⟩ := drive_onlyPin (asm := lone n) rfl
    (device_setFields bus 0 (.divider (!l)) _ device) rfl now (!l)
  refine ⟨(mid.removeAllEvents 0).addEvent 0 (t + n) (t + n), mid.nextSeq, ?_, midDevice, ?_⟩
  · simp only [fire, kind, fields_of_device device, dividerFire, driven]
  · have gone : mid.events = [] := midEvents.trans noEvents
    simp [Bus.addEvent, Bus.removeAllEvents, gone]

/-- A drain within a period of the last toggle brings the divider up to date. -/
theorem Toggled.runSchedule {n j c : Nat} {bus : Bus} (h : Toggled n j bus) (pos : 1 ≤ n) (since : n * j ≤ c)
    (upTo : c ≤ n * (j + 1)) : ∃ bus', runSchedule (lone n) c bus = some bus' ∧ Toggled n (c / n) bus' := by
  obtain ⟨seq, events⟩ := h.events
  rcases Nat.lt_or_eq_of_le upTo with early | rfl
  · have same : c / n = j := Nat.div_eq_of_lt_le (by rwa [Nat.mul_comm]) (by rwa [Nat.mul_comm])
    have noneDue : bus.due c = [] := by
      rw [Bus.due, events, List.filter_cons_of_neg (by simpa using mod_cast early)]
      rfl
    exact ⟨bus, by rw [Machine.runSchedule, drainWith, noneDue, seqM], same ▸ h⟩
  · have next : n * (j + 1) / n = j + 1 := Nat.mul_div_cancel_left _ pos
    have due : bus.due (n * (j + 1) : Nat) = [⟨0, (n * (j + 1) : Nat), (n * (j + 1) : Nat), seq⟩] := by
      rw [Bus.due, events, List.filter_cons_of_pos (by simp)]
      rfl
    have dropped : ({ bus with events := bus.events.filter fun x => x.seq ≠ seq } : Bus).events = [] := by
      simp [events]
    obtain ⟨bus', seq', fired, device', events'⟩ := fire_lone n (n * (j + 1) : Nat) (n * (j + 1) : Nat)
      (bus := { bus with events := bus.events.filter fun x => x.seq ≠ seq }) h.device dropped
    have toggles : (!decide (j % 2 = 0)) = decide ((j + 1) % 2 = 0) := by
      rw [← decide_not, decide_eq_decide]
      omega
    have later : ((n * (j + 1) : Nat) : Int) + n = (n * (j + 1 + 1) : Nat) := by push_cast; ring
    rw [toggles] at device'
    rw [later] at events'
    rw [next]
    refine ⟨bus', ?_, device', seq', events'⟩
    have pending : (⟨0, (n * (j + 1) : Nat), (n * (j + 1) : Nat), seq⟩ : Event) ∈ bus.events := by simp [events]
    simp only [Machine.runSchedule, drainWith, due, seqM, fireIfPending_of_mem _ pending, fired]

/-- What a reset leaves of it: no toggle yet, the first one armed a period away (R1005). -/
theorem toggled_of_resetMachine {n : Nat} {s r : State} (asm : s.asm = lone n) (h : resetMachine s = some r) :
    r.asm = lone n ∧ r.cyc = 0 ∧ Toggled n 0 r.bus := by
  obtain ⟨mid, bus, hooks, sweep, rfl⟩ := resetMachine_eq s r h
  refine ⟨asm, rfl, ?_⟩
  rw [asm] at hooks sweep
  obtain rfl : mid = bus := Option.some.inj sweep
  have device : (s.bus.cleared (lone n)).device? 0 = some ⟨[true], .divider true⟩ := rfl
  obtain ⟨driven, drives, device', events', -⟩ := drive_onlyPin (asm := lone n) rfl
    (device_setFields (s.bus.cleared (lone n)) 0 (.divider true) _ device) rfl 0 true
  have kind : kindOf (lone n) 0 = some (.divider n) := rfl
  have hook : resetHook (lone n) 0 0 (s.bus.cleared (lone n)) =
      some ((driven.removeAllEvents 0).addEvent 0 (0 + n) (0 + n)) := by
    simp only [resetHook, kind, drives]
  have one : resetHooks (lone n) (s.bus.cleared (lone n)) = resetHook (lone n) 0 0 (s.bus.cleared (lone n)) := by
    rw [hook]
    show seqM (resetHook (lone n) 0) [0] _ = _
    simp only [seqM, hook]
  rw [one, hook] at hooks
  obtain rfl := Option.some.inj hooks
  have gone : driven.events = [] := events'
  exact ⟨device', driven.nextSeq, by simp [Bus.addEvent, Bus.removeAllEvents, gone]⟩

theorem Toggled.drain {n j : Nat} {s : State} (pos : 1 ≤ n) (asm : s.asm = lone n) (h : Toggled n j s.bus)
    (since : n * j ≤ s.cyc) (upTo : s.cyc ≤ n * (j + 1)) :
    ∃ bus, s.drain = some { s with bus := bus } ∧ Toggled n (s.cyc / n) bus := by
  obtain ⟨bus, drains, h'⟩ := h.runSchedule pos since upTo
  exact ⟨bus, by rw [State.drain, asm, drains, Option.map_some], h'⟩

/-- Under `idle` the divider toggles at every multiple of its period and nowhere else. -/
theorem Toggled.idle {n : Nat} (pos : 1 ≤ n) (m : Nat) {j : Nat} {s : State} (asm : s.asm = lone n)
    (h : Toggled n j s.bus) (since : n * j ≤ s.cyc) (upTo : s.cyc ≤ n * (j + 1)) :
    ∃ t, idle m s = some t ∧ Toggled n ((s.cyc + m) / n) t.bus := by
  induction m generalizing j s with
  | zero =>
    obtain ⟨bus, drained, h'⟩ := h.drain pos asm since upTo
    exact ⟨_, drained, h'⟩
  | succ m ih =>
    obtain ⟨bus, drained, h'⟩ := h.drain pos asm since upTo
    have since' : n * (s.cyc / n) ≤ s.cyc + 1 := Nat.le_succ_of_le (Nat.mul_div_le _ _)
    have upTo' : s.cyc + 1 ≤ n * (s.cyc / n + 1) := Nat.lt_mul_div_succ _ pos
    obtain ⟨t, run, ht⟩ := ih (s := { s with cyc := s.cyc + 1, bus := bus }) asm h' since' upTo'
    refine ⟨t, ?_, ?_⟩
    · simp only [Machine.idle, drained]
      exact run
    · rwa [Nat.add_right_comm] at ht

/-! ### The statements -/

/-- Settles O54: the divider's level tells how often it has toggled since reset. -/
theorem dividerTogglesEveryPeriod : Obligations.DividerTogglesEveryPeriod := by
  intro n m s r pos asm reset
  obtain ⟨rAsm, rCyc, armed⟩ := toggled_of_resetMachine asm reset
  obtain ⟨t, run, toggled⟩ := armed.idle pos m rAsm (by omega) (by omega)
  have cyc : t.cyc = m := by rw [idleAdvancesExactly m r t run, rCyc, Nat.zero_add]
  rw [rCyc, Nat.zero_add] at toggled
  exact ⟨t, run, cyc, by rw [level_eq t.bus ⟨0, 0⟩ _ toggled.device]; rfl⟩

/-- Settles O55: its notification by the window, its sample by the level. -/
theorem decoderSampleResult : Obligations.DecoderSampleResult := by
  intro asm now param dev delay zmax zrun phase last bus levels kind device
  have fields := fields_of_device device
  have notified := notifyChange_decoder_input kind fields
  have sampled := fire_decoder kind fields now param
  refine ⟨fun closed edge => ⟨?opens, fun later => ?absorbedLater⟩, fun closed same => ?ignored, fun opened => ?absorbs,
    fun pin output => notifyChange_decoder_output kind fields now output, fun pins data clk =>
      ⟨fun same short => ?short, fun same long => ?long, fun edge => ?bit⟩⟩
  case opens => rw [notified, decoderNotified_closed now closed, if_neg edge]
  case absorbedLater =>
    have stillDecoder : (bus.addEvent dev (now + delay) 0).fields? dev = some (.decoder phase last zrun) := fields
    rw [notifyChange_decoder_input kind stillDecoder,
      decoderNotified_open later ⟨⟨dev, now + delay, 0, bus.nextSeq⟩, by simp [Bus.addEvent], rfl⟩]
  case ignored => rw [notified, decoderNotified_closed now closed, if_pos same]
  case absorbs => rw [notified, decoderNotified_open now opened]
  case short => rw [sampled, decoderFire, if_pos same, if_neg (by omega)]
  case long => rw [sampled, decoderFire, if_pos same, if_pos long]
  case bit =>
    obtain ⟨bus', fired, device', events'⟩ := decoderFire_bit device pins data clk edge now
    refine ⟨bus', sampled.trans fired, fields_of_device device', ?_, ?_, events'⟩
    · rw [level_eq bus' ⟨dev, 1⟩ _ device']
      simp [pins]
    · rw [level_eq bus' ⟨dev, 2⟩ _ device']
      simp [pins]

/-- Settles O56: the handler latches, keeps the clock's level and drives the unattached output. -/
theorem samplerClockResult : Obligations.SamplerClockResult := by
  intro asm now dev latch prev bus levels kind device pins unattached
  obtain ⟨notify, notified⟩ := notifyChange_sampler_clock kind (fields_of_device device) now
  obtain ⟨bus', handled, device'⟩ := samplerNotified_unattached device pins unattached notify rfl rfl
  refine ⟨bus', _, notified.trans handled, by simp [nextLatch], fields_of_device device', ?_⟩
  rw [level_eq bus' ⟨dev, 2⟩ _ device']
  simp [pins, samplerOut]

/-- Settles O57: three drives of the one pin, and what each leaves of the device's events. -/
theorem autoResetSilences : Obligations.AutoResetSilences := by
  intro asm now later param dev limit active bus levels fields kind device onePin unattached
  refine ⟨?activate, ?fire, ?deactivate⟩
  case activate =>
    obtain ⟨mid, driven, device', -, nextSeq⟩ := drive_onlyPin unattached device onePin now active
    refine ⟨_, by rw [activate_autoReset kind, driven, Option.map_some], ?_, ?_⟩
    · exact level_eq mid ⟨dev, 0⟩ _ device'
    · rw [filter_addEvent_removeAllEvents, nextSeq]
  case fire =>
    obtain ⟨bus', driven, device', events, -⟩ := drive_onlyPin unattached device onePin later (!active)
    exact ⟨bus', by rw [fire_autoReset kind, driven], level_eq bus' ⟨dev, 0⟩ _ device', events⟩
  case deactivate =>
    obtain ⟨bus', driven, device', events, -⟩ :=
      drive_onlyPin (bus := bus.removeAllEvents dev) unattached device onePin now (!active)
    exact ⟨bus', by rw [deactivate_autoReset kind, driven], level_eq bus' ⟨dev, 0⟩ _ device', events⟩

end Sys2Proof.Machine
end

section
/-! SUPPORT. The reset sequence (O42, O58, O59). A reset is the CPU's reset values around what its devices make of the
cleared bus. That part starts from the wiring and the count of free port values alone and is blind to the count, so it
comes out the same from every state of one configuration. Of all devices only a platform device makes a request, and
where no pin is attached no propagation can run on. -/

namespace Sys2Proof.Machine

/-! ### The two parts of a reset (R1001) -/

/-- Steps (2) to (6) of R1001: what the devices' hooks and the sweep make of the cleared bus. -/
def resetDevices (asm : Assembly) (bus : Bus) : Option Bus :=
  (resetHooks asm (bus.cleared asm)).bind (resetSweep asm)

/-- The CPU's reset values around a bus (R130). -/
def State.withResetCpu (s : State) (bus : Bus) : State :=
  { s with
    a := 0x00#8, b := 0x00#8, c := 0x00#8, d := 0x00#8, e := 0x00#8, h := 0x00#8, l := 0x00#8
    f := fixF s.par 0x02#8, sp := 0x0000#16, pc := 0x0000#16
    ie := false, dly := false, halted := false, cyc := 0, bus := bus }

theorem resetMachine_eq_map (s : State) : resetMachine s = (resetDevices s.asm s.bus).map s.withResetCpu := by
  unfold resetMachine resetDevices
  cases resetHooks s.asm (s.bus.cleared s.asm) with
  | none => rfl
  | some mid =>
    simp only [Option.bind_some]
    cases resetSweep s.asm mid <;> rfl

/-- A reset that ends leaves the devices' part of it and the CPU's reset values. -/
theorem resetMachine_eq_some_iff (s t : State) :
    resetMachine s = some t ↔ ∃ bus, resetDevices s.asm s.bus = some bus ∧ s.withResetCpu bus = t := by
  rw [resetMachine_eq_map, Option.map_eq_some_iff]

/-- A reset meets the invariant whatever stood in the machine, but for memory, which it leaves (R1004). -/
theorem inv_of_resetMachine {s t : State} (h : resetMachine s = some t) (mem : Memory.wf s.mem = true) : t.Inv := by
  obtain ⟨mid, bus, hooks, sweep, rfl⟩ := resetMachine_eq s t h
  exact ⟨mem, fixF_fixF s.par 0x02#8,
    resetDevices_keeps (busFits_closed s.asm) _ _ _ _ hooks sweep (busFits_cleared s.asm s.bus)⟩

/-! ### Nothing but the configuration (R1002, R1003) -/

/-- The devices' part of a reset depends on the wiring alone, and hands on the count of free port values. -/
theorem resetDevices_eq (asm : Assembly) (bus bus' : Bus) :
    resetDevices asm bus' = (resetDevices asm bus).map (·.withFrees bus'.frees) := by
  have start : bus'.cleared asm = (bus.cleared asm).withFrees bus'.frees := rfl
  rw [resetDevices, resetDevices, start, resetHooks_blind asm]
  cases resetHooks asm (bus.cleared asm) with
  | none => rfl
  | some mid => exact resetSweep_blind asm mid bus'.frees

/-- A reset leaves MEM and the model's own fields of its start, and all else as any reset of the configuration does. -/
theorem resetMachine_of_same_configuration {s s' : State} (par : s'.par = s.par) (asm : s'.asm = s.asm) :
    resetMachine s' =
      (resetMachine s).map fun t =>
        { t with
          mem := s'.mem, bank := s'.bank, outside := s'.outside, exclMask := s'.exclMask
          bus := { t.bus with frees := s'.bus.frees } } := by
  rw [resetMachine_eq_map s', resetMachine_eq_map s, asm, resetDevices_eq s.asm s.bus s'.bus]
  cases resetDevices s.asm s.bus with
  | none => rfl
  | some bus => simp [State.withResetCpu, Bus.withFrees, par, asm]

/-! ### Who can make a request (R910, R919) -/

/-- No device of the assembly is a platform device. -/
def NoPlatform (asm : Assembly) : Prop := ∀ dev r, kindOf asm dev ≠ some (.platform r)

theorem noPlatform_of_devices {asm : Assembly} (h : ∀ decl ∈ asm.devices, ∀ r, decl.kind ≠ .platform r) :
    NoPlatform asm := by
  intro dev r kind
  obtain ⟨decl, found, isPlatform⟩ := Option.map_eq_some_iff.mp kind
  exact h decl (List.mem_of_getElem? found) r isPlatform

/-- INTREQ, INTVEC and RSTREQ (R123, R124). -/
def Bus.requests (bus : Bus) : Bool × Word × Bool := (bus.intReq, bus.intVec, bus.rstReq)

@[simp] theorem requests_setLevel (bus : Bus) (p : PinId) (v : Bool) : (bus.setLevel p v).requests = bus.requests := rfl

@[simp] theorem requests_setFields (bus : Bus) (dev : Nat) (fields : DeviceFields) :
    (bus.setFields dev fields).requests = bus.requests := rfl

@[simp] theorem requests_addEvent (bus : Bus) (dev : Nat) (t x : Int) :
    (bus.addEvent dev t x).requests = bus.requests := rfl

@[simp] theorem requests_removeAllEvents (bus : Bus) (dev : Nat) :
    (bus.removeAllEvents dev).requests = bus.requests := rfl

/-- The cleared bus has no request (R1001 step 2). -/
@[simp] theorem requests_cleared (asm : Assembly) (bus : Bus) :
    (bus.cleared asm).requests = (false, 0x0000#16, false) := rfl

/-- An operation that leaves the three request latches as they were. -/
def KeepsRequests (act : Bus → Option Bus) : Prop :=
  ∀ bus bus', act bus = some bus' → bus'.requests = bus.requests

theorem seqM_keepsRequests {α : Type} {act : α → Bus → Option Bus} (h : ∀ x, KeepsRequests (act x)) (xs : List α) :
    KeepsRequests (seqM act xs) := fun bus bus' run =>
  seqM_keeps (P := fun b => b.requests = bus.requests) (fun x b b' turn same => (h x b b' turn).trans same) xs bus bus'
    run rfl

/-- What driving a pin can do: nothing, store its level, or store it and notify pins (R942). -/
theorem driveWith_cases {notify : PinId → Bus → Option Bus} {asm : Assembly} {p : PinId} {v : Bool} {bus bus' : Bus}
    (h : driveWith notify asm p v bus = some bus') :
    bus' = bus ∨ bus' = bus.setLevel p v ∨ ∃ qs, seqM notify qs (bus.setLevel p v) = some bus' := by
  simp only [driveWith] at h
  split at h
  · exact .inl (Option.some.inj h).symm
  · split at h
    · exact .inr (.inl (Option.some.inj h).symm)
    · split at h
      · exact .inr (.inl (Option.some.inj h).symm)
      · exact .inr (.inr ⟨_, h⟩)

theorem driveWith_keepsRequests {notify : PinId → Bus → Option Bus} (h : ∀ q, KeepsRequests (notify q)) (asm : Assembly)
    (p : PinId) (v : Bool) : KeepsRequests (driveWith notify asm p v) := by
  intro bus bus' driven
  obtain rfl | rfl | ⟨qs, run⟩ := driveWith_cases driven
  · rfl
  · rfl
  · simpa using seqM_keepsRequests h qs _ _ run

@[simp] theorem requests_decoderNotified (asm : Assembly) (now : Int) (dev delay : Nat) (last : Bool) (bus : Bus) :
    (decoderNotified asm now dev delay last bus).requests = bus.requests := by
  unfold decoderNotified
  split
  · split <;> rfl
  · rfl

/-- Without platform devices a notification makes no request, whatever the depth. -/
theorem notifyUpTo_keepsRequests {asm : Assembly} (noPlatform : NoPlatform asm) (now : Int) (depth : Nat) (q : PinId) :
    KeepsRequests (notifyUpTo asm now depth q) := by
  induction depth generalizing q with
  | zero => intro _ _ h; cases h
  | succ depth ih =>
    intro bus bus' h
    simp only [notifyUpTo, handleNotify] at h
    split at h
    case h_1 =>
      split at h <;> cases h
      · exact requests_decoderNotified _ _ _ _ _ _
      · rfl
    case h_2 =>
      split at h
      · simpa using driveWith_keepsRequests ih _ _ _ _ _ h
      · cases h; rfl
    case h_3 kind => exact absurd kind (noPlatform _ _)
    case h_4 => cases h; rfl

theorem drive_keepsRequests {asm : Assembly} (noPlatform : NoPlatform asm) (now : Int) (p : PinId) (v : Bool) :
    KeepsRequests (drive asm now p v) :=
  driveWith_keepsRequests (fun q => notifyUpTo_keepsRequests noPlatform now _ q) asm p v

/-- Nor does a reset hook. -/
theorem resetHook_keepsRequests {asm : Assembly} (noPlatform : NoPlatform asm) (now : Int) (dev : Nat) :
    KeepsRequests (resetHook asm now dev) := by
  intro bus bus' h
  have drives := drive_keepsRequests noPlatform now
  unfold resetHook at h
  split at h
  case h_1 =>
    split at h <;> cases h
    rename_i driven
    simpa using drives _ _ _ _ driven
  case h_2 =>
    simp only at h
    split at h
    · cases h
    · rename_i driven
      simpa using (drives _ _ _ _ h).trans (drives _ _ _ _ driven)
  case h_3 => simpa using drives _ _ _ _ h
  case h_4 => simpa using drives _ _ _ _ h
  case h_5 kind => exact absurd kind (noPlatform _ _)
  case h_6 => cases h; rfl

/-- Without platform devices a reset leaves no request. -/
theorem resetMachine_requests {s t : State} (noPlatform : NoPlatform s.asm) (h : resetMachine s = some t) :
    t.bus.intReq = false ∧ t.bus.intVec = 0x0000#16 ∧ t.bus.rstReq = false := by
  obtain ⟨mid, bus, hooks, sweep, rfl⟩ := resetMachine_eq s t h
  have same : bus.requests = (s.bus.cleared s.asm).requests :=
    (seqM_keepsRequests (fun q => notifyUpTo_keepsRequests noPlatform 0 _ q) _ _ _ sweep).trans
      (seqM_keepsRequests (resetHook_keepsRequests noPlatform 0) _ _ _ hooks)
  rw [requests_cleared] at same
  simpa [Bus.requests] using same

/-! ### A reset of an unwired machine -/

theorem seqM_ends {α : Type} {act : α → Bus → Option Bus} (h : ∀ x bus, ∃ bus', act x bus = some bus') (xs : List α)
    (bus : Bus) : ∃ bus', seqM act xs bus = some bus' := by
  induction xs generalizing bus with
  | nil => exact ⟨bus, rfl⟩
  | cons x xs ih =>
    obtain ⟨mid, turn⟩ := h x bus
    simp only [seqM, turn]
    exact ih mid

theorem drive_ends_of_unwired {asm : Assembly} (unwired : asm.nodes = []) (now : Int) (p : PinId) (v : Bool)
    (bus : Bus) : ∃ bus', drive asm now p v bus = some bus' :=
  ⟨_, driveWith_unattached _ asm p v bus (by simp [nodeOf, unwired])⟩

/-- With nobody to notify, the hook of each of the four peripherals ends. -/
theorem resetHook_ends_of_unwired {asm : Assembly} (unwired : asm.nodes = []) (noPlatform : NoPlatform asm) (now : Int)
    (dev : Nat) (bus : Bus) : ∃ bus', resetHook asm now dev bus = some bus' := by
  have ends := drive_ends_of_unwired unwired now
  unfold resetHook
  split
  case h_1 =>
    obtain ⟨driven, drives⟩ := ends ⟨dev, 0⟩ true (bus.setFields dev (.divider true))
    exact ⟨_, by rw [drives]⟩
  case h_2 =>
    obtain ⟨driven, drives⟩ := ends ⟨dev, 1⟩ true
      ((bus.setFields dev (.decoder false (bus.queryNode asm ⟨dev, 0⟩) 0)).removeAllEvents dev)
    simp only [drives]
    exact ends _ _ _
  case h_3 => exact ends _ _ _
  case h_4 => exact ends _ _ _
  case h_5 kind => exact absurd kind (noPlatform _ _)
  case h_6 => exact ⟨bus, rfl⟩

theorem resetMachine_ends_of_unwired {s : State} (unwired : s.asm.nodes = []) (noPlatform : NoPlatform s.asm) :
    ∃ t, resetMachine s = some t := by
  obtain ⟨bus, hooks⟩ := seqM_ends (resetHook_ends_of_unwired unwired noPlatform 0) (List.range s.asm.devices.length)
    (s.bus.cleared s.asm)
  have sweep : resetSweep s.asm bus = some bus := by rw [resetSweep, unwired]; rfl
  have devices : resetDevices s.asm s.bus = some bus := by
    rw [resetDevices, resetHooks, hooks, Option.bind_some, sweep]
  exact ⟨_, (resetMachine_eq_some_iff s _).mpr ⟨bus, devices, rfl⟩⟩

/-! ### The statements -/

/-- Settles O58: the reset values around the bus, and no request without a platform device to make it. -/
theorem resetSequenceResult : Obligations.ResetSequenceResult := by
  intro s t h
  have requests := fun devices => resetMachine_requests (noPlatform_of_devices devices) h
  obtain ⟨bus, -, rfl⟩ := (resetMachine_eq_some_iff s t).mp h
  have memory : KeepsMemory s (s.withResetCpu bus) := keepsMemory_of s _ ⟨rfl, rfl, rfl⟩ rfl
  exact ⟨fun r _ => by cases r <;> rfl, rfl, rfl, rfl, rfl, rfl, rfl, rfl, memory, rfl, rfl, rfl, requests⟩

/-- Settles O59: the state a reset leaves is of the configuration it started from, with its memory, mask and count, so
that the second clause, taken from it, is the first. -/
theorem resetIsIdempotent : Obligations.ResetIsIdempotent := by
  refine ⟨fun s t h => ?again, fun s s' => resetMachine_of_same_configuration, fun s unwired devices => ?ends⟩
  case again =>
    have good := resetMachine_keepsGood s t h
    rw [resetMachine_of_same_configuration good.par good.asm, h, Option.map_some]
  case ends =>
    have noPlatform := noPlatform_of_devices devices
    obtain ⟨t, h⟩ := resetMachine_ends_of_unwired unwired noPlatform
    obtain ⟨intReq, intVec, rstReq⟩ := resetMachine_requests noPlatform h
    exact ⟨t, h, intReq, rstReq, intVec⟩

/-- Settles O42: it is what a reset gives from itself, with nothing in memory. -/
theorem invariantHoldsAtReset : Obligations.InvariantHoldsAtReset := inv_of_resetMachine resetMachine_reset rfl

end Sys2Proof.Machine
end
